-- ==== Sys2Proof/Word.lean ====
section
/-! DEFINITION. The widths of the values the engine holds (00_scope.md R6, R10). -/

namespace Sys2Proof

/-- A 32-bit register or command word (R6: register width 32, command width 32). -/
abbrev Word := BitVec 32

/-- A 16-bit sum of the ICS or the ADL unit. -/
abbrev Half := BitVec 16

/-- A byte is 8 bits (R11). -/
abbrev Byte := BitVec 8

end Sys2Proof
end

