-- ==== Sys2Proof/Syntax.lean ====
section
/-! DEFINITION. The sixteen commands of 30_encoding.md R92, one constructor per row of spec/opcode_table.json. -/

namespace Sys2Proof

/-- A command with its explicit operands. Every other operand is an implicit register (30_encoding.md R93). -/
inductive Instr where
  /-- `NOP` (44_system.md R230). -/
  | nop
  /-- `SYS.RESET` (44_system.md R231). -/
  | sysReset
  /-- `ICS.INIT` (40_internet_checksum.md R122). -/
  | icsInit
  /-- `ICS.ADD` (R123). -/
  | icsAdd
  /-- `ICS.ADDB` with its byte `IMM8` (R124; 30_encoding.md R94). -/
  | icsAddb (imm8 : Byte)
  /-- `ICS.PH` (R127). -/
  | icsPh
  /-- `ICS.PUT` (R129). -/
  | icsPut
  /-- `CRC.INIT` (41_crc32c.md R154). -/
  | crcInit
  /-- `CRC.ADD` (R155). -/
  | crcAdd
  /-- `CRC.ADDB` with its byte `IMM8` (R156). -/
  | crcAddb (imm8 : Byte)
  /-- `ADL.INIT` (42_adler32.md R172). -/
  | adlInit
  /-- `ADL.ADD` (R173). -/
  | adlAdd
  /-- `ADL.ADDB` with its byte `IMM8` (R174). -/
  | adlAddb (imm8 : Byte)
  /-- `DNS.CLR` (43_dns_name.md R196). -/
  | dnsClr
  /-- `DNS.DEC` (R197). -/
  | dnsDec
  /-- `DNS.ENC` with its flag `NC` (R201; 30_encoding.md R95). -/
  | dnsEnc (nc : Bool)
  deriving DecidableEq, Repr

end Sys2Proof
end

