-- ==== Sys2Proof/Config.lean ====
section
/-! DEFINITION. The implementation parameters of 00_scope.md R5 and the model's free values. -/

namespace Sys2Proof

/-- The five parameters that the spec leaves open (00_scope.md R5, decisions D7 and D8). They are no
state of the engine (10_state.md R20): they stand beside it, so that a claim about every machine is a claim about every value
of them, and no step changes them. -/
structure Params where
  /-- `BUF_SIZE`, the number of bytes of `BUF`. -/
  bufSize : Nat
  /-- `NAME_MAX`, the number of bytes of `NAME`. -/
  nameMax : Nat
  /-- `REG_CAP`, the number of entries each DNS registry can hold; `none` is unbounded. -/
  regCap : Option Nat
  /-- `CRC_INIT`. -/
  crcInit : Word
  /-- `CRC_XOROUT`. -/
  crcXorout : Word
  deriving DecidableEq, Repr

/-- The values that the spec's examples use (R5). DESIGN CHOICE for the three sizes (log 3), PRESUMED for the two CRC
values (log 4); unsafe: a claim about the reset state alone holds for these values only. -/
def Config.exampleParams : Params :=
  { bufSize := 65536, nameMax := 255, regCap := some 64, crcInit := 0xFFFFFFFF#32, crcXorout := 0xFFFFFFFF#32 }

/-- FREE VALUE (log 5), safe: what `BUF[a]` holds when nothing has written it since hard reset number `epoch`
(10_state.md R54; 93_implementation_defined.md I1: any value). -/
opaque Config.bufInit (epoch a : Nat) : Byte

/-- FREE VALUE (log 5), safe: what `NAME[i]` holds when nothing has written it since hard reset number `epoch`
(10_state.md R54; 93_implementation_defined.md I1: any value). -/
opaque Config.nameInit (epoch i : Nat) : Byte

/-- FREE VALUE (log 14), safe: what a 32-bit view reads when the count it shows does not fit 32 bits; 10_state.md R44
and R45 state no value there. -/
opaque Config.wideView (n : Nat) : Word

end Sys2Proof
end

