-- ==== Sys2Proof/WellFormed.lean ====
section
/-! DEFINITION. The checks on data whose type alone does not rule out what the spec excludes: the parameters of
00_scope.md R5, and a command word taken apart into the fields of 30_encoding.md R91. An `Instr` needs no check: its
operand types (one byte, one bit) hold exactly the values that R94 and R95 allow. -/

namespace Sys2Proof

/-- The constraints of 00_scope.md R5: `1 <= BUF_SIZE <= 2^31`, `1 <= NAME_MAX <= 4096`, and `REG_CAP >= 1` where it is
bounded. -/
def Params.wf (p : Params) : Bool :=
  decide (1 ≤ p.bufSize) && decide (p.bufSize ≤ 2 ^ 31) && decide (1 ≤ p.nameMax) && decide (p.nameMax ≤ 4096) &&
    match p.regCap with
    | none => true
    | some n => decide (1 ≤ n)

/-- The four fields of a command word (30_encoding.md R91), before anything is known of them. -/
structure Fields where
  /-- `OPC`, bits 31:24. -/
  opc : Byte
  /-- The reserved bits 23:9. -/
  reserved : BitVec 15
  /-- `NC`, bit 8. -/
  nc : Bool
  /-- `IMM8`, bits 7:0. -/
  imm8 : Byte
  deriving DecidableEq, Repr

/-- The opcodes of the sixteen commands (30_encoding.md R92). -/
def assignedOpcodes : List Byte :=
  [0x00#8, 0x01#8, 0x10#8, 0x11#8, 0x12#8, 0x13#8, 0x15#8, 0x20#8, 0x21#8, 0x22#8, 0x30#8, 0x31#8, 0x32#8,
   0x40#8, 0x41#8, 0x42#8]

/-- The opcodes whose command uses `IMM8` (30_encoding.md R91, R96). -/
def imm8Opcodes : List Byte := [0x12#8, 0x22#8, 0x32#8]

/-- The fields are those of a command and not of an illegal word: the opcode is assigned (30_encoding.md R97), no reserved
bit is set, `NC` is set on `DNS.ENC` only, and `IMM8` is not 0 on the `ADDB` commands only (R96). -/
def Fields.wf (f : Fields) : Bool :=
  assignedOpcodes.contains f.opc && decide (f.reserved = 0#15) && (!f.nc || decide (f.opc = 0x42#8)) &&
    (decide (f.imm8 = 0#8) || imm8Opcodes.contains f.opc)

end Sys2Proof
end

