-- ==== Sys2Proof/Decode.lean ====
section
/-! DEFINITION. The decoder of a command word, total and rejecting by name (30_encoding.md R91, R96, R97, R102), and
after it the encoder (R92) and the table of masks and matches of R92. -/

namespace Sys2Proof

/-- Why a word is illegal. The engine raises the same fault for all four, `E_ILLEGAL_CMD` (30_encoding.md R96, R97). -/
inductive Reject where
  /-- `OPC` is not one of the sixteen (R97). -/
  | unassignedOpcode
  /-- A bit of 23:9 is set (R96). -/
  | reservedBits
  /-- `NC` is set on a command other than `DNS.ENC` (R96). -/
  | ncSet
  /-- `IMM8` is not 0 on a command that has no immediate (R96). -/
  | imm8Set
  deriving DecidableEq, Repr

/-- The fields of a word (30_encoding.md R91). -/
def fieldsOf (w : Word) : Fields :=
  { opc := w.extractLsb' 24 8, reserved := w.extractLsb' 9 15, nc := w.getLsbD 8, imm8 := w.extractLsb' 0 8 }

/-- A command without operands: `NC` and `IMM8` must be 0 (R96). -/
def plainCommand (f : Fields) (i : Instr) : Except Reject Instr :=
  if f.nc then .error .ncSet else if f.imm8 ≠ 0#8 then .error .imm8Set else .ok i

/-- An `ADDB` command: `NC` must be 0 (R96), `IMM8` is its byte as it stands (R94). -/
def byteCommand (f : Fields) (mk : Byte → Instr) : Except Reject Instr :=
  if f.nc then .error .ncSet else .ok (mk f.imm8)

/-- `DNS.ENC`: `IMM8` must be 0 (R96), `NC` is its flag (R95). -/
def flagCommand (f : Fields) (mk : Bool → Instr) : Except Reject Instr :=
  if f.imm8 ≠ 0#8 then .error .imm8Set else .ok (mk f.nc)

/-- The command that the opcode selects (30_encoding.md R92), its operand fields checked. -/
def selectCommand (f : Fields) : Except Reject Instr :=
  if f.opc = 0x00#8 then plainCommand f .nop
  else if f.opc = 0x01#8 then plainCommand f .sysReset
  else if f.opc = 0x10#8 then plainCommand f .icsInit
  else if f.opc = 0x11#8 then plainCommand f .icsAdd
  else if f.opc = 0x12#8 then byteCommand f .icsAddb
  else if f.opc = 0x13#8 then plainCommand f .icsPh
  else if f.opc = 0x15#8 then plainCommand f .icsPut
  else if f.opc = 0x20#8 then plainCommand f .crcInit
  else if f.opc = 0x21#8 then plainCommand f .crcAdd
  else if f.opc = 0x22#8 then byteCommand f .crcAddb
  else if f.opc = 0x30#8 then plainCommand f .adlInit
  else if f.opc = 0x31#8 then plainCommand f .adlAdd
  else if f.opc = 0x32#8 then byteCommand f .adlAddb
  else if f.opc = 0x40#8 then plainCommand f .dnsClr
  else if f.opc = 0x41#8 then plainCommand f .dnsDec
  else if f.opc = 0x42#8 then flagCommand f .dnsEnc
  else .error .unassignedOpcode

/-- The decoder: every word is one of the sixteen commands or rejected by name (30_encoding.md R98, R102). It looks at
one word and needs nothing else (R90). -/
def decode (w : Word) : Except Reject Instr :=
  if (fieldsOf w).reserved ≠ 0#15 then .error .reservedBits else selectCommand (fieldsOf w)

/-- The word of a command: the `match` of 30_encoding.md R92, with `IMM8` in bits 7:0 and `NC` in bit 8. -/
def encode : Instr → Word
  | .nop => 0x00000000#32
  | .sysReset => 0x01000000#32
  | .icsInit => 0x10000000#32
  | .icsAdd => 0x11000000#32
  | .icsAddb imm8 => 0x12000000#32 ||| imm8.setWidth 32
  | .icsPh => 0x13000000#32
  | .icsPut => 0x15000000#32
  | .crcInit => 0x20000000#32
  | .crcAdd => 0x21000000#32
  | .crcAddb imm8 => 0x22000000#32 ||| imm8.setWidth 32
  | .adlInit => 0x30000000#32
  | .adlAdd => 0x31000000#32
  | .adlAddb imm8 => 0x32000000#32 ||| imm8.setWidth 32
  | .dnsClr => 0x40000000#32
  | .dnsDec => 0x41000000#32
  | .dnsEnc nc => 0x42000000#32 ||| (if nc then 0x100#32 else 0#32)

/-- One row of the opcode map of 30_encoding.md R92: a word `w` is the command exactly when `w &&& mask = pattern`. -/
structure CommandRow where
  mnemonic : String
  pattern : Word
  mask : Word
  deriving DecidableEq, Repr

/-- The opcode map of 30_encoding.md R92, row for row. -/
def commandRows : List CommandRow :=
  [ { mnemonic := "NOP", pattern := 0x00000000#32, mask := 0xFFFFFFFF#32 },
    { mnemonic := "SYS.RESET", pattern := 0x01000000#32, mask := 0xFFFFFFFF#32 },
    { mnemonic := "ICS.INIT", pattern := 0x10000000#32, mask := 0xFFFFFFFF#32 },
    { mnemonic := "ICS.ADD", pattern := 0x11000000#32, mask := 0xFFFFFFFF#32 },
    { mnemonic := "ICS.ADDB", pattern := 0x12000000#32, mask := 0xFFFFFF00#32 },
    { mnemonic := "ICS.PH", pattern := 0x13000000#32, mask := 0xFFFFFFFF#32 },
    { mnemonic := "ICS.PUT", pattern := 0x15000000#32, mask := 0xFFFFFFFF#32 },
    { mnemonic := "CRC.INIT", pattern := 0x20000000#32, mask := 0xFFFFFFFF#32 },
    { mnemonic := "CRC.ADD", pattern := 0x21000000#32, mask := 0xFFFFFFFF#32 },
    { mnemonic := "CRC.ADDB", pattern := 0x22000000#32, mask := 0xFFFFFF00#32 },
    { mnemonic := "ADL.INIT", pattern := 0x30000000#32, mask := 0xFFFFFFFF#32 },
    { mnemonic := "ADL.ADD", pattern := 0x31000000#32, mask := 0xFFFFFFFF#32 },
    { mnemonic := "ADL.ADDB", pattern := 0x32000000#32, mask := 0xFFFFFF00#32 },
    { mnemonic := "DNS.CLR", pattern := 0x40000000#32, mask := 0xFFFFFFFF#32 },
    { mnemonic := "DNS.DEC", pattern := 0x41000000#32, mask := 0xFFFFFFFF#32 },
    { mnemonic := "DNS.ENC", pattern := 0x42000000#32, mask := 0xFFFFFEFF#32 } ]

/-- The mnemonic of a command, as spec/opcode_table.json spells it. -/
def Instr.mnemonic : Instr → String
  | .nop => "NOP"
  | .sysReset => "SYS.RESET"
  | .icsInit => "ICS.INIT"
  | .icsAdd => "ICS.ADD"
  | .icsAddb _ => "ICS.ADDB"
  | .icsPh => "ICS.PH"
  | .icsPut => "ICS.PUT"
  | .crcInit => "CRC.INIT"
  | .crcAdd => "CRC.ADD"
  | .crcAddb _ => "CRC.ADDB"
  | .adlInit => "ADL.INIT"
  | .adlAdd => "ADL.ADD"
  | .adlAddb _ => "ADL.ADDB"
  | .dnsClr => "DNS.CLR"
  | .dnsDec => "DNS.DEC"
  | .dnsEnc _ => "DNS.ENC"

/-- The instruction that the decoder reads from the `nbits` low bits of `w`, the bits above them 0. The command is one
32-bit word, so the first word holds the whole of it (30_encoding.md R90). -/
def decodeTableWord (nbits w : Nat) : Option Instr :=
  (decode (BitVec.ofNat 32 (w % 2 ^ nbits))).toOption

end Sys2Proof
end

