-- ==== Sys2Proof/Machine/Checksum.lean ====
section
/-! DEFINITION. The arithmetic of the three checksum units, on plain data: one byte absorbed at a time, and the functions
of a whole byte sequence that the rules define (00_scope.md R15; 40_internet_checksum.md R120, R121; 41_crc32c.md R150 to
R158; 42_adler32.md R170, R171). -/

namespace Sys2Proof.Machine

open Sys2Proof

/-! ### The Internet checksum -/

/-- One's-complement addition with end-around carry, `add1c` (00_scope.md R15). -/
def add1c (a b : Half) : Half :=
  if 0xFFFF < a.toNat + b.toNat then BitVec.ofNat 16 (a.toNat + b.toNat) + 1#16 else BitVec.ofNat 16 (a.toNat + b.toNat)

/-- The registers of the ICS unit (10_state.md R30). -/
structure IcsAcc where
  sum : Half
  hold : Byte
  odd : Bool
  deriving DecidableEq, Repr

/-- The registers at the start of a stream (40_internet_checksum.md R122). -/
def icsStart : IcsAcc := { sum := 0#16, hold := 0#8, odd := false }

/-- `IcsAbsorb(b)` (40_internet_checksum.md R121): the first byte of a pair is the high byte of the word. -/
def icsAbsorb (u : IcsAcc) (b : Byte) : IcsAcc :=
  if u.odd then { sum := add1c u.sum (u.hold ++ b), hold := 0#8, odd := false }
  else { sum := u.sum, hold := b, odd := true }

/-- `IcsAbsorbAll(s)` (R121). -/
def icsAbsorbAll (u : IcsAcc) (bs : List Byte) : IcsAcc := bs.foldl icsAbsorb u

/-- The value of the view `ICS_RESULT` (10_state.md R31): the pending byte is padded with zero, and the sum complemented. -/
def icsResult (u : IcsAcc) : Half :=
  ~~~(if u.odd then add1c u.sum (u.hold ++ 0#8) else u.sum)

/-- The words `w(k)` of 40_internet_checksum.md R120: big-endian pairs, an odd last byte padded with zero. -/
def icsWords : List Byte → List Half
  | [] => []
  | [b] => [b ++ 0#8]
  | a :: b :: bs => (a ++ b) :: icsWords bs

/-- `S(n)` of R120: the words added by `add1c`, from 0. -/
def onesSum (ws : List Half) : Half := ws.foldl add1c 0#16

/-- `InetChecksum(s)` (R120). -/
def inetChecksum (bs : List Byte) : Half := ~~~(onesSum (icsWords bs))

/-- The sum of the words as a mathematical integer, the `T` of R135. -/
def wordTotal (ws : List Half) : Nat := (ws.map BitVec.toNat).sum

/-- One folding step of a wide accumulator (R131). -/
def foldCarry (t : Nat) : Nat := t % 2 ^ 16 + t / 2 ^ 16

/-! ### CRC-32C -/

/-- `CRC_POLY` (00_scope.md R6). -/
def crcPoly : Word := 0x1EDC6F41#32

/-- `CRC_POLY_REFLECTED` (00_scope.md R6; UNVERIFIED as the meaning of "reflected", log 11). -/
def crcPolyReflected : Word := 0x82F63B78#32

/-- One shift of the reflected form (41_crc32c.md R151, R158). -/
def crcShift (r : Word) : Word :=
  if r.getLsbD 0 then (r >>> 1) ^^^ crcPolyReflected else r >>> 1

/-- `n` shifts. -/
def crcShifts : Nat → Word → Word
  | 0, r => r
  | n + 1, r => crcShifts n (crcShift r)

/-- `CRC_TABLE[i]` (R151): the index shifted eight times. -/
def crcTable (i : Byte) : Word := crcShifts 8 (i.setWidth 32)

/-- `CrcAbsorb(b)` (R153). -/
def crcAbsorb (crc : Word) (b : Byte) : Word :=
  crcTable ((crc ^^^ b.setWidth 32).extractLsb' 0 8) ^^^ (crc >>> 8)

/-- `CrcAbsorbAll(s)` (R153). -/
def crcAbsorbAll (crc : Word) (bs : List Byte) : Word := bs.foldl crcAbsorb crc

/-- `Crc32c(s)` for the parameters `init` and `xorout` (R157). -/
def crc32c (init xorout : Word) (bs : List Byte) : Word := crcAbsorbAll init bs ^^^ xorout

/-! ### Adler-32 -/

/-- `ADLER_MOD` (00_scope.md R6; UNVERIFIED, log 12). -/
def adlerMod : Nat := 65521

/-- The registers of the ADL unit (10_state.md R39). -/
structure AdlAcc where
  a : Half
  b : Half
  deriving DecidableEq, Repr

/-- The registers at the start of a stream (42_adler32.md R172). -/
def adlStart : AdlAcc := { a := 1#16, b := 0#16 }

/-- `AdlAbsorb(b)` (R171): both sums reduced exactly, the second with the new first. -/
def adlAbsorb (u : AdlAcc) (x : Byte) : AdlAcc :=
  let a' := (u.a.toNat + x.toNat) % adlerMod
  { a := BitVec.ofNat 16 a', b := BitVec.ofNat 16 ((u.b.toNat + a') % adlerMod) }

/-- `AdlAbsorbAll(s)` (R171). -/
def adlAbsorbAll (u : AdlAcc) (bs : List Byte) : AdlAcc := bs.foldl adlAbsorb u

/-- The value `{B, A}` of the view `ADL_SUM` (10_state.md R39). -/
def adlValue (u : AdlAcc) : Word := u.b ++ u.a

/-- `Adler32(s)` (R175). -/
def adler32 (bs : List Byte) : Word := adlValue (adlAbsorbAll adlStart bs)

end Sys2Proof.Machine
end

