-- ==== Sys2Proof/Machine/State.lean ====
section
/-! DEFINITION. The engine's state: exactly the components of 10_state.md R20. Beside it, in a structure of its own, what the
rule says is not state (the parameters, the host's transactions) and the model's counter of hard resets. -/

namespace Sys2Proof.Machine

open Sys2Proof

/-- Why the machine could stop with a host-level fault: never. It has no constructor, because every fault of the engine
is a next state in which `STATUS.FAULT` is 1 (60_exceptions.md R240, R243; log 9). Safe: no run ends in one. -/
inductive Fault where
  deriving DecidableEq, Repr

/-- Why the machine refuses. -/
inductive Refusal where
  /-- Raised by an arm of `exec` whose instruction has no meaning yet, and by nothing else. Safe: the run stops. No arm
  of this model raises it. -/
  | notModelled (mnemonic : String)
  deriving DecidableEq, Repr

/-- What can happen to the engine from outside (00_scope.md R7, R8; 20_memory.md R60; 70_reset_and_hazards.md R280, R297).
A width is a number of bits; the host may use any (R297, log 8). -/
inductive HostEvent where
  /-- A read transaction of `width` bits at host address `addr`. -/
  | read (width : Nat) (addr : Word)
  /-- A write transaction of `width` bits at host address `addr`; its data are the low bits of `data` (log 8). -/
  | write (width : Nat) (addr data : Word)
  /-- A hard reset, caused by the platform (70_reset_and_hazards.md R280; log 6). -/
  | hardReset
  deriving DecidableEq, Repr

/-- THE ARCHITECTURAL STATE OF THE ENGINE: the components of 10_state.md R20, all of them and nothing else. -/
structure EngineState where
  /-- `FAULT`, seen as `STATUS[0]` (R24). -/
  fault : Bool
  /-- `ERR_CODE` (R25). -/
  errCode : Byte
  /-- `ERR_POS` (R26). -/
  errPos : Word
  /-- `ERR_CMD` (R27). -/
  errCmd : Word
  /-- `ARG_PTR` (R28). -/
  argPtr : Word
  /-- `ARG_CNT` (R29). -/
  argCnt : Word
  /-- `SUM` (R30). -/
  sum : Half
  /-- `HOLD` (R30). -/
  hold : Byte
  /-- `ODD` (R30). -/
  odd : Bool
  /-- `PH_CTL` (R32). -/
  phCtl : BitVec 4
  /-- `PH_PROTO` (R33). -/
  phProto : Byte
  /-- `PH_LEN` (R34). -/
  phLen : Word
  /-- `PH_SRC0` (R35). -/
  phSrc0 : Word
  /-- `PH_SRC1` (R35). -/
  phSrc1 : Word
  /-- `PH_SRC2` (R35). -/
  phSrc2 : Word
  /-- `PH_SRC3` (R35). -/
  phSrc3 : Word
  /-- `PH_DST0` (R36). -/
  phDst0 : Word
  /-- `PH_DST1` (R36). -/
  phDst1 : Word
  /-- `PH_DST2` (R36). -/
  phDst2 : Word
  /-- `PH_DST3` (R36). -/
  phDst3 : Word
  /-- `CRC` (R37). -/
  crc : Word
  /-- `A` (R39). -/
  adlA : Half
  /-- `B` (R39). -/
  adlB : Half
  /-- `DNS_BASE` (R40). -/
  dnsBase : Word
  /-- `DNS_LEN` (R41). -/
  dnsLen : Word
  /-- `DNS_POS` (R42). -/
  dnsPos : Word
  /-- `NAME_LEN` (R43). -/
  nameLen : Word
  /-- `NAME` (R46): the bytes written since hard reset, by index, indices strictly rising. -/
  name : List Host.Cell
  /-- `DREG` (R47): offset to name, offsets strictly rising. -/
  dreg : List (Word × List Byte)
  /-- `EREG` (R48): name to offset, names strictly rising in the order of `nameLt`. -/
  ereg : List (List Byte × Word)
  /-- `BUF` (R49): the bytes written since hard reset, by address, addresses strictly rising. -/
  buf : List Host.Cell
  deriving DecidableEq, Repr

/-- What stands around the engine and is no state of it (10_state.md R20: "What is not state"). It is here because a step
of the host's interface has a state as its one argument. No register shows `epoch`, `port` or `rdata`. -/
structure Surroundings where
  /-- The parameters of 00_scope.md R5, which the model takes as arguments; no step changes them (log 3). -/
  params : Params
  /-- How many hard resets there were: the argument of the free values of unwritten bytes (log 6). -/
  epoch : Nat
  /-- The host events still to come, the next one first (log 1). -/
  port : List HostEvent
  /-- What the last transaction returned to the host, `none` when it was no read (log 2). -/
  rdata : Option Word
  deriving DecidableEq, Repr

/-- A configuration of the machine as the host's interface runs it: the engine's state, and apart from it what stands
around the engine (log 17). -/
structure State extends EngineState, Surroundings
  deriving DecidableEq, Repr

/-- The engine's state after hard reset, for the parameters `p` (10_state.md R52; 70_reset_and_hazards.md R280, R282): no
byte of `NAME` or `BUF` is written, both registries are empty. -/
def EngineState.resetWith (p : Params) : EngineState :=
  { fault := false, errCode := 0#8, errPos := 0#32, errCmd := 0#32, argPtr := 0#32, argCnt := 0#32,
    sum := 0#16, hold := 0#8, odd := false, phCtl := 0#4, phProto := 0#8, phLen := 0#32,
    phSrc0 := 0#32, phSrc1 := 0#32, phSrc2 := 0#32, phSrc3 := 0#32,
    phDst0 := 0#32, phDst1 := 0#32, phDst2 := 0#32, phDst3 := 0#32,
    crc := p.crcInit, adlA := 1#16, adlB := 0#16,
    dnsBase := 0#32, dnsLen := 0#32, dnsPos := 0#32, nameLen := 0#32,
    name := [], dreg := [], ereg := [], buf := [] }

/-- The machine right after hard reset, with the parameters `p`, no hard reset before and no host event to come. -/
def State.resetWith (p : Params) : State :=
  { toEngineState := EngineState.resetWith p, params := p, epoch := 0, port := [], rdata := none }

/-- The machine right after hard reset, with the parameters of the spec's examples (log 3, log 4) and no host event to
come (log 1). -/
def State.reset : State := State.resetWith Config.exampleParams

end Sys2Proof.Machine
end

