-- ==== Sys2Proof/Machine/Ops.lean ====
section
/-! DEFINITION. The named operations over the state: finite maps, memory, registers, taking a fault and clearing one. -/

namespace Sys2Proof.Machine

open Sys2Proof

/-! ### Finite maps in one canonical form: lists of pairs, keys strictly rising -/

/-- The value under a key, none when the key is absent. -/
def mapGet {κ β : Type} [DecidableEq κ] (k : κ) : List (κ × β) → Option β
  | [] => none
  | (k', v) :: m => if k = k' then some v else mapGet k m

/-- The map with `k` bound to `v`: an entry under `k` is replaced, otherwise one is added at its place in the order. -/
def mapPut {κ β : Type} [DecidableEq κ] (lt : κ → κ → Bool) (k : κ) (v : β) : List (κ × β) → List (κ × β)
  | [] => [(k, v)]
  | (k', v') :: m =>
    if k = k' then (k, v) :: m
    else if lt k k' then (k, v) :: (k', v') :: m
    else (k', v') :: mapPut lt k v m

/-- The canonical form: each key comes before all later ones, so no key stands twice. -/
abbrev mapSorted {κ β : Type} (lt : κ → κ → Bool) (m : List (κ × β)) : Prop :=
  m.Pairwise fun p q => lt p.1 q.1 = true

/-- The order of memory indices. -/
def natLt (a b : Nat) : Bool := decide (a < b)

/-- The order of offsets. -/
def wordLt (a b : Word) : Bool := decide (a.toNat < b.toNat)

/-- The order of names: byte for byte, a proper prefix first. -/
def nameLt : List Byte → List Byte → Bool
  | [], [] => false
  | [], _ :: _ => true
  | _ :: _, [] => false
  | a :: s, b :: t => if a = b then nameLt s t else decide (a.toNat < b.toNat)

/-! ### Memory: `NAME` and `BUF` (10_state.md R46, R49; 20_memory.md R64, R65) -/

/-- The canonical form of a memory of `size` bytes: indices strictly rising and below `size`. An unlisted index reads as
"never written", which no entry is equal to (log 5). -/
abbrev Memory.wf (size : Nat) (m : List Host.Cell) : Prop :=
  mapSorted natLt m ∧ ∀ c ∈ m, c.1 < size

/-- `BUF[a]`: the byte last written, or the unspecified initial byte (10_state.md R54). -/
def bufRead (s : State) (a : Nat) : Byte := (mapGet a s.buf).getD (Config.bufInit s.epoch a)

/-- `NAME[i]`: the byte last written, or the unspecified initial byte (10_state.md R54). -/
def nameRead (s : State) (i : Nat) : Byte := (mapGet i s.name).getD (Config.nameInit s.epoch i)

/-- `BUF[a] <- b`. -/
def bufWrite (s : State) (a : Nat) (b : Byte) : State := { s with buf := mapPut natLt a b s.buf }

/-- `NAME[i] <- b`. -/
def nameWrite (s : State) (i : Nat) (b : Byte) : State := { s with name := mapPut natLt i b s.name }

/-- `MemRead(addr, n)`: the bytes `BUF[addr]` to `BUF[addr+n-1]` (20_memory.md R64). -/
def memRead (s : State) (addr : Nat) : Nat → List Byte
  | 0 => []
  | n + 1 => bufRead s addr :: memRead s (addr + 1) n

/-- `MemWrite(addr, n, v)`: the bytes of `v` stored from `BUF[addr]` up, lowest index first (20_memory.md R65). -/
def memWrite (s : State) (addr : Nat) : List Byte → State
  | [] => s
  | b :: v => memWrite (bufWrite s addr b) (addr + 1) v

/-- The bytes `NAME[i]` to `NAME[i+n-1]`. -/
def nameSlice (s : State) (i : Nat) : Nat → List Byte
  | 0 => []
  | n + 1 => nameRead s i :: nameSlice s (i + 1) n

/-! ### Byte order (00_scope.md R11; 20_memory.md R68) -/

/-- `be16(v)`: most significant byte first. -/
def be16 (v : Half) : List Byte := [v.extractLsb' 8 8, v.extractLsb' 0 8]

/-- `be32(v)`: most significant byte first. -/
def be32 (v : Word) : List Byte := [v.extractLsb' 24 8, v.extractLsb' 16 8, v.extractLsb' 8 8, v.extractLsb' 0 8]

/-! ### Named updates of the state -/

/-- The ICS unit's registers (10_state.md R30). -/
def State.setIcs (s : State) (sum : Half) (hold : Byte) (odd : Bool) : State := { s with sum := sum, hold := hold, odd := odd }

/-- `CRC <- v` (10_state.md R37). -/
def State.setCrc (s : State) (v : Word) : State := { s with crc := v }

/-- `A <- a; B <- b` (10_state.md R39). -/
def State.setAdl (s : State) (a b : Half) : State := { s with adlA := a, adlB := b }

/-- `DNS_POS <- v` (10_state.md R42). -/
def State.setDnsPos (s : State) (v : Word) : State := { s with dnsPos := v }

/-- `NAME_LEN <- v` (10_state.md R43). -/
def State.setNameLen (s : State) (v : Word) : State := { s with nameLen := v }

/-- `DREG <- m` (10_state.md R47). -/
def State.setDreg (s : State) (m : List (Word × List Byte)) : State := { s with dreg := m }

/-- `EREG <- m` (10_state.md R48). -/
def State.setEreg (s : State) (m : List (List Byte × Word)) : State := { s with ereg := m }

/-- What the current transaction returns to the host (log 2). -/
def State.setRdata (s : State) (v : Option Word) : State := { s with rdata := v }

/-- The host events still to come (log 1). -/
def State.setPort (s : State) (evs : List HostEvent) : State := { s with port := evs }

/-! ### Faults (60_exceptions.md R240 to R247) -/

/-- The causes of 60_exceptions.md R241. -/
inductive ErrCode where
  | illegalCmd
  | access
  | bounds
  | phNoaddr
  | phFamily
  | phLen
  | dnsUnderrun
  | dnsUnresolved
  | dnsNameOvf
  | dnsRegFull
  | dnsLabelLong
  | dnsLabelEmpty
  | dnsOverrun
  | dnsPtrRange
  deriving DecidableEq, Repr

/-- The value that `ERR_CODE` takes (60_exceptions.md R241). -/
def errCodeByte : ErrCode → Byte
  | .illegalCmd => 0x01#8
  | .access => 0x02#8
  | .bounds => 0x03#8
  | .phNoaddr => 0x10#8
  | .phFamily => 0x11#8
  | .phLen => 0x12#8
  | .dnsUnderrun => 0x20#8
  | .dnsUnresolved => 0x21#8
  | .dnsNameOvf => 0x22#8
  | .dnsRegFull => 0x23#8
  | .dnsLabelLong => 0x24#8
  | .dnsLabelEmpty => 0x25#8
  | .dnsOverrun => 0x26#8
  | .dnsPtrRange => 0x27#8

/-- The four fault registers written. -/
def State.recordFault (s : State) (code : Byte) (pos cmd : Word) : State :=
  { s with fault := true, errCode := code, errPos := pos, errCmd := cmd }

/-- TAKING A FAULT, `raise Fault(code, pos)` (60_exceptions.md R243; 00_scope.md R14): the first fault since reset is
recorded with its cause, its position and the command word; a later one records nothing (R247). Every earlier effect of
the transaction stands (R244). `cmd` is the command word, or 0 for a fault of a host access. -/
def takeFault (s : State) (c : ErrCode) (pos cmd : Word) : State :=
  if s.fault then s else s.recordFault (errCodeByte c) pos cmd

/-- CLEARING A FAULT: the soft reset (44_system.md R231; 60_exceptions.md R246). Every register has its reset value and
both registries are empty; `NAME` and `BUF` keep their contents. What stands around the engine is untouched. -/
def softReset (s : State) : State :=
  { s with toEngineState := { EngineState.resetWith s.params with name := s.name, buf := s.buf } }

/-- The hard reset (70_reset_and_hazards.md R280): as the soft reset, and every byte of `NAME` and `BUF` is unspecified
anew (log 6). -/
def hardReset (s : State) : State :=
  { s with toEngineState := EngineState.resetWith s.params, epoch := s.epoch + 1 }

/-! ### The outcome of a command's pseudocode -/

/-- A piece of a command's pseudocode ends normally with a value, or raises a fault; either way with the state as the
assignments made so far leave it (00_scope.md R14). -/
inductive Res (α : Type) where
  /-- It ended normally. -/
  | ok (a : α) (s : State)
  /-- It raised the fault `c` with position `pos`. -/
  | raise (c : ErrCode) (pos : Word) (s : State)
  deriving Repr

/-- One piece after another: nothing after a `raise` happens (60_exceptions.md R243). -/
def Res.bind {α β : Type} (r : Res α) (f : α → State → Res β) : Res β :=
  match r with
  | .ok a s => f a s
  | .raise c pos s => .raise c pos s

/-- The end of the transaction that wrote the command word `word` to `CMD`: a raised fault is taken, with that word as
`ERR_CMD` (60_exceptions.md R243). Either way the machine goes on. -/
def finish (word : Word) (r : Res Unit) : Host.Outcome State Fault Refusal :=
  match r with
  | .ok _ s => .next s
  | .raise c pos s => .next (takeFault s c pos word)

/-! ### DNS registries (43_dns_name.md R195) -/

/-- `RegPut(M, k, v)`: the map with the entry put, none when the entry would be new and `M` holds `REG_CAP` entries. -/
def regPut {κ β : Type} [DecidableEq κ] (cap : Option Nat) (lt : κ → κ → Bool) (m : List (κ × β)) (k : κ) (v : β) :
    Option (List (κ × β)) :=
  if (mapGet k m).isSome then some (mapPut lt k v m)
  else if cap = some m.length then none
  else some (mapPut lt k v m)

end Sys2Proof.Machine
end

