-- ==== Sys2Proof/Machine/Flags.lean ====
section
/-! DEFINITION. The flag-like state of 10_state.md R51: `FAULT`, `ODD` and the four bits of `PH_CTL`. The engine has no
condition codes; `ODD` is computed with the sum it belongs to (Machine/Checksum.lean, `icsAbsorb`). -/

namespace Sys2Proof.Machine

open Sys2Proof

/-- `STATUS` as the host reads it: bit 0 is `FAULT`, the others 0 (10_state.md R24). -/
def statusWord (s : State) : Word := if s.fault then 1#32 else 0#32

/-- `PH_CTL.SRC_VALID`, bit 0 (10_state.md R32). -/
def phSrcValid (s : State) : Bool := s.phCtl.getLsbD 0

/-- `PH_CTL.SRC_V6`, bit 1 (R32). -/
def phSrcV6 (s : State) : Bool := s.phCtl.getLsbD 1

/-- `PH_CTL.DST_VALID`, bit 2 (R32). -/
def phDstValid (s : State) : Bool := s.phCtl.getLsbD 2

/-- `PH_CTL.DST_V6`, bit 3 (R32). -/
def phDstV6 (s : State) : Bool := s.phCtl.getLsbD 3

/-- `ODD` after absorbing `n` bytes, `ODD xor n[0]` (40_internet_checksum.md R123, "Flags"). -/
def oddAfter (odd : Bool) (n : Nat) : Bool := xor odd (decide (n % 2 = 1))

end Sys2Proof.Machine
end

