-- ==== Sys2Proof/Machine/Operands.lean ====
section
/-! DEFINITION. The implicit operands of the commands (30_encoding.md R93): the range `ARG_PTR`, `ARG_CNT`, the address of
`ICS.PUT`, the pseudo-header, the message byte at `DNS_BASE + DNS_POS`, and the name in `NAME`. -/

namespace Sys2Proof.Machine

open Sys2Proof

/-- The range test of 20_memory.md R66, in unbounded integers: `n` bytes from `ARG_PTR` on lie in `BUF`. -/
def rangeFits (s : State) (n : Nat) : Bool := decide (s.argPtr.toNat + n ≤ s.params.bufSize)

/-- The bytes of the range `ARG_PTR`, `ARG_CNT` (20_memory.md R64). -/
def rangeBytes (s : State) : List Byte := memRead s s.argPtr.toNat s.argCnt.toNat

/-- The operand of an `ADD` command: its bytes, or `E_BOUNDS` before anything is read (20_memory.md R66). -/
def rangeOperand (s : State) : Res (List Byte) :=
  if rangeFits s s.argCnt.toNat then .ok (rangeBytes s) s else .raise .bounds s.argPtr s

/-- The registers of the ICS unit as one value. -/
def State.ics (s : State) : IcsAcc := { sum := s.sum, hold := s.hold, odd := s.odd }

/-- The registers of the ICS unit written. -/
def State.withIcs (s : State) (u : IcsAcc) : State := s.setIcs u.sum u.hold u.odd

/-- The registers of the ADL unit as one value. -/
def State.adl (s : State) : AdlAcc := { a := s.adlA, b := s.adlB }

/-- The registers of the ADL unit written. -/
def State.withAdl (s : State) (u : AdlAcc) : State := s.setAdl u.a u.b

/-- The 12 bytes of the IPv4 pseudo-header (40_internet_checksum.md R125). -/
def ph4 (s : State) : List Byte :=
  be32 s.phSrc0 ++ be32 s.phDst0 ++ [0x00#8, s.phProto] ++ be16 (s.phLen.extractLsb' 0 16)

/-- The 40 bytes of the IPv6 pseudo-header (40_internet_checksum.md R126). -/
def ph6 (s : State) : List Byte :=
  be32 s.phSrc0 ++ be32 s.phSrc1 ++ be32 s.phSrc2 ++ be32 s.phSrc3 ++
  be32 s.phDst0 ++ be32 s.phDst1 ++ be32 s.phDst2 ++ be32 s.phDst3 ++
  be32 s.phLen ++ [0x00#8, 0x00#8, 0x00#8] ++ [s.phProto]

/-- The operand of `ICS.PH` (40_internet_checksum.md R127): the pseudo-header that `PH_CTL` selects, or the first of the
three faults whose test fails. -/
def phOperand (s : State) : Res (List Byte) :=
  if !phSrcValid s || !phDstValid s then .raise .phNoaddr 0#32 s
  else if phSrcV6 s != phDstV6 s then .raise .phFamily 0#32 s
  else if phSrcV6 s then .ok (ph6 s) s
  else if 0xFFFF < s.phLen.toNat then .raise .phLen 0#32 s
  else .ok (ph4 s) s

/-- The window test of the two DNS commands (20_memory.md R67). -/
def dnsWindow (s : State) : Res Unit :=
  if s.dnsBase.toNat + s.dnsLen.toNat ≤ s.params.bufSize then .ok () s else .raise .bounds s.dnsBase s

/-- The `BUF` address of the message byte at `DNS_POS` (10_state.md R42). -/
def dnsAddr (s : State) : Nat := s.dnsBase.toNat + s.dnsPos.toNat

/-- `DnsRd8()` (43_dns_name.md R193). -/
def dnsRd8 (s : State) : Res Byte :=
  if s.dnsPos.toNat < s.dnsLen.toNat then .ok (bufRead s (dnsAddr s)) (s.setDnsPos (s.dnsPos + 1#32))
  else .raise .dnsUnderrun s.dnsPos s

/-- `DnsWr8(b)` (43_dns_name.md R193). -/
def dnsWr8 (b : Byte) (s : State) : Res Unit :=
  if s.dnsPos.toNat < s.dnsLen.toNat then .ok () ((bufWrite s (dnsAddr s) b).setDnsPos (s.dnsPos + 1#32))
  else .raise .dnsOverrun s.dnsPos s

/-- `DnsWr8` of each byte of a list in order. -/
def dnsWrAll : List Byte → State → Res Unit
  | [], s => .ok () s
  | b :: bs, s => (dnsWr8 b s).bind fun _ s => dnsWrAll bs s

/-- `NameAppend(c)` (43_dns_name.md R194). -/
def nameAppend (c : Byte) (s : State) : Res Unit :=
  if s.nameLen.toNat < s.params.nameMax then .ok () ((nameWrite s s.nameLen.toNat c).setNameLen (s.nameLen + 1#32))
  else .raise .dnsNameOvf s.dnsPos s

/-- `NameAppend` of each byte of a list in order. -/
def nameAppendAll : List Byte → State → Res Unit
  | [], s => .ok () s
  | c :: cs, s => (nameAppend c s).bind fun _ s => nameAppendAll cs s

/-- The byte `0x2E`, the ASCII dot that separates labels (10_state.md R46). -/
def dot : Byte := 0x2E#8

/-- The name in `NAME` (43_dns_name.md R190). -/
def currentName (s : State) : List Byte := nameSlice s 0 s.nameLen.toNat

/-- The 14-bit offset of a pointer with the bytes `p0`, `p1` (43_dns_name.md R192). -/
def pointerOffset (p0 p1 : Byte) : Word := (p0.extractLsb' 0 6 ++ p1).setWidth 32

/-- The two bytes of a pointer to the offset `off` (43_dns_name.md R192). -/
def pointerBytes (off : Word) : List Byte :=
  [0xC0#8 ||| (off.extractLsb' 8 6).setWidth 8, off.extractLsb' 0 8]

/-- A length byte whose top two bits are set begins a pointer (43_dns_name.md R191). -/
def isPointerByte (b : Byte) : Bool := decide (b.extractLsb' 6 2 = 3#2)

end Sys2Proof.Machine
end

