-- ==== Sys2Proof/Machine/Adl.lean ====
section
/-! DEFINITION. The ADL unit: Adler-32 (42_adler32.md). -/

namespace Sys2Proof.Machine

open Sys2Proof

/-- `ADL.INIT` starts a new stream (R172). -/
def execAdlInit (s : State) : Host.Outcome State Fault Refusal :=
  finish (encode .adlInit) (.ok () (s.withAdl adlStart))

/-- `ADL.ADD` absorbs a range of `BUF` (R173). -/
def execAdlAdd (s : State) : Host.Outcome State Fault Refusal :=
  finish (encode .adlAdd) ((rangeOperand s).bind fun bs s => .ok () (s.withAdl (adlAbsorbAll s.adl bs)))

/-- `ADL.ADDB` absorbs the byte `IMM8` (R174). -/
def execAdlAddb (imm8 : Byte) (s : State) : Host.Outcome State Fault Refusal :=
  finish (encode (.adlAddb imm8)) (.ok () (s.withAdl (adlAbsorb s.adl imm8)))

end Sys2Proof.Machine
end

