-- ==== Sys2Proof/Machine/Crc.lean ====
section
/-! DEFINITION. The CRC unit: CRC-32C (41_crc32c.md). -/

namespace Sys2Proof.Machine

open Sys2Proof

/-- `CRC.INIT` starts a new stream (R154). -/
def execCrcInit (s : State) : Host.Outcome State Fault Refusal :=
  finish (encode .crcInit) (.ok () (s.setCrc s.params.crcInit))

/-- `CRC.ADD` absorbs a range of `BUF` (R155). -/
def execCrcAdd (s : State) : Host.Outcome State Fault Refusal :=
  finish (encode .crcAdd) ((rangeOperand s).bind fun bs s => .ok () (s.setCrc (crcAbsorbAll s.crc bs)))

/-- `CRC.ADDB` absorbs the byte `IMM8` (R156). -/
def execCrcAddb (imm8 : Byte) (s : State) : Host.Outcome State Fault Refusal :=
  finish (encode (.crcAddb imm8)) (.ok () (s.setCrc (crcAbsorb s.crc imm8)))

end Sys2Proof.Machine
end

