-- ==== Sys2Proof/Machine/Dns.lean ====
section
/-! DEFINITION. The DNS unit: name decompression and compression (43_dns_name.md). Each loop is a structural recursion on
a bound that the loop cannot pass (60_exceptions.md R254; log 15). -/

namespace Sys2Proof.Machine

open Sys2Proof

/-! ### Decode -/

/-- The separator before all labels but the first: `if NAME_LEN > 0: NameAppend(0x2E)` (R197). -/
def nameSeparator (s : State) : Res Unit :=
  if s.nameLen = 0#32 then .ok () s else nameAppend dot s

/-- `repeat n times: NameAppend(DnsRd8())` (R197). -/
def decLabel : Nat → State → Res Unit
  | 0, s => .ok () s
  | n + 1, s => (dnsRd8 s).bind fun c s => (nameAppend c s).bind fun _ s => decLabel n s

/-- A pointer whose first byte is `p0` (R197): its offset is looked up in `DREG`, and the registered name is appended. -/
def decPointer (p0 : Byte) (s : State) : Res Unit :=
  (dnsRd8 s).bind fun p1 s =>
    match mapGet (pointerOffset p0 p1) s.dreg with
    | none => .raise .dnsUnresolved s.dnsPos s
    | some nm => (nameSeparator s).bind fun _ s => nameAppendAll nm s

/-- The loop of `DNS.DEC` (R197). `k` holds the pairs `(start, idx)` that await registration, the last one first; the
result is that list at the name's end. `fuel` bounds the message bytes left, so that with no fuel there is no byte to read
and `DnsRd8` raises `E_DNS_UNDERRUN` (log 15). -/
def decItems : Nat → List (Word × Nat) → State → Res (List (Word × Nat))
  | 0, _, s => .raise .dnsUnderrun s.dnsPos s
  | fuel + 1, k, s =>
    (dnsRd8 s).bind fun len s =>
      if len = 0#8 then .ok k s
      else if isPointerByte len then (decPointer len s).bind fun _ s => .ok k s
      else if s.dnsLen.toNat < s.dnsPos.toNat + len.toNat then .raise .dnsUnderrun s.dnsPos s
      else
        (nameSeparator s).bind fun _ s1 =>
          (decLabel len.toNat s1).bind fun _ s2 =>
            decItems fuel ((s.dnsPos - 1#32, s1.nameLen.toNat) :: k) s2

/-- The registrations of `DNS.DEC` (R197): for each pair, the suffix `NAME[idx .. NAME_LEN-1]` under `start`, in the order
of the list. -/
def decRegister : List (Word × Nat) → State → Res Unit
  | [], s => .ok () s
  | (start, idx) :: k, s =>
    match regPut s.params.regCap wordLt s.dreg start (nameSlice s idx (s.nameLen.toNat - idx)) with
    | none => .raise .dnsRegFull s.dnsPos s
    | some m => decRegister k (s.setDreg m)

/-- `DNS.DEC`, the pseudocode of R197. -/
def dnsDecode (s : State) : Res Unit :=
  (dnsWindow s).bind fun _ s =>
    (decItems (s.dnsLen.toNat - s.dnsPos.toNat) [] (s.setNameLen 0#32)).bind fun k s => decRegister k s

/-! ### Encode -/

/-- The registry at the head of an encode turn (R201): the offset that `rem` is registered at, or none after `rem` has been
registered at `DNS_POS`. With `NC = 1` the registry is neither read nor written. -/
def encLookup (nc : Bool) (rem : List Byte) (s : State) : Res (Option Word) :=
  if nc then .ok none s
  else
    match mapGet rem s.ereg with
    | some off => .ok (some off) s
    | none =>
      match regPut s.params.regCap nameLt s.ereg rem s.dnsPos with
      | none => .raise .dnsRegFull s.dnsPos s
      | some m => .ok none (s.setEreg m)

/-- A back-pointer to `off` (R201). -/
def encPointer (off : Word) (s : State) : Res Unit :=
  if 0x3FFF < off.toNat then .raise .dnsPtrRange s.dnsPos s else dnsWrAll (pointerBytes off) s

/-- The first label of a name: its bytes up to the first separator (R190). -/
def firstLabel (rem : List Byte) : List Byte := rem.takeWhile fun c => c != dot

/-- One label written: tested, then its length byte, then its bytes (R201). -/
def encLabel (label : List Byte) (s : State) : Res Unit :=
  if label.length = 0 then .raise .dnsLabelEmpty s.dnsPos s
  else if 63 < label.length then .raise .dnsLabelLong s.dnsPos s
  else (dnsWr8 (BitVec.ofNat 8 label.length) s).bind fun _ s => dnsWrAll label s

/-- The loop of `DNS.ENC` (R201) for the suffix `rem`, not empty, still to be encoded. `fuel` is at least its length; each
turn shortens it, so that the case of no fuel is not reached (log 15). -/
def encSuffix (nc : Bool) : Nat → List Byte → State → Res Unit
  | 0, _, s => .raise .dnsLabelEmpty s.dnsPos s
  | fuel + 1, rem, s =>
    (encLookup nc rem s).bind fun found s =>
      match found with
      | some off => encPointer off s
      | none =>
        (encLabel (firstLabel rem) s).bind fun _ s =>
          match rem.drop (firstLabel rem).length with
          | [] => dnsWr8 0x00#8 s
          | [_] => .raise .dnsLabelEmpty s.dnsPos s
          | _ :: rest => encSuffix nc fuel rest s

/-- `DNS.ENC`, the pseudocode of R201. -/
def dnsEncode (nc : Bool) (s : State) : Res Unit :=
  (dnsWindow s).bind fun _ s =>
    if s.params.nameMax < s.nameLen.toNat then .raise .dnsNameOvf s.dnsPos s
    else if s.nameLen = 0#32 then dnsWr8 0x00#8 s
    else encSuffix nc s.nameLen.toNat (currentName s) s

/-! ### The commands -/

/-- `DNS.CLR` starts a new message pass (R196). -/
def execDnsClr (s : State) : Host.Outcome State Fault Refusal :=
  finish (encode .dnsClr) (.ok () ((s.setDreg []).setEreg []))

/-- `DNS.DEC` decodes one name from the message into `NAME` (R197). -/
def execDnsDec (s : State) : Host.Outcome State Fault Refusal := finish (encode .dnsDec) (dnsDecode s)

/-- `DNS.ENC` encodes the name in `NAME` into the message (R201). -/
def execDnsEnc (nc : Bool) (s : State) : Host.Outcome State Fault Refusal := finish (encode (.dnsEnc nc)) (dnsEncode nc s)

end Sys2Proof.Machine
end

