-- ==== Sys2Proof/Machine/Ics.lean ====
section
/-! DEFINITION. The ICS unit: the Internet checksum and its pseudo-headers (40_internet_checksum.md). -/

namespace Sys2Proof.Machine

open Sys2Proof

/-- `ICS.INIT` starts a new stream (R122). -/
def execIcsInit (s : State) : Host.Outcome State Fault Refusal :=
  finish (encode .icsInit) (.ok () (s.withIcs icsStart))

/-- `ICS.ADD` absorbs a range of `BUF` (R123). -/
def execIcsAdd (s : State) : Host.Outcome State Fault Refusal :=
  finish (encode .icsAdd) ((rangeOperand s).bind fun bs s => .ok () (s.withIcs (icsAbsorbAll s.ics bs)))

/-- `ICS.ADDB` absorbs the byte `IMM8` (R124). -/
def execIcsAddb (imm8 : Byte) (s : State) : Host.Outcome State Fault Refusal :=
  finish (encode (.icsAddb imm8)) (.ok () (s.withIcs (icsAbsorb s.ics imm8)))

/-- `ICS.PH` absorbs the pseudo-header built from the `PH_` registers (R127). -/
def execIcsPh (s : State) : Host.Outcome State Fault Refusal :=
  finish (encode .icsPh) ((phOperand s).bind fun bs s => .ok () (s.withIcs (icsAbsorbAll s.ics bs)))

/-- `ICS.PUT` stores the checksum of the stream so far, most significant byte first, at `ARG_PTR` (R129). -/
def execIcsPut (s : State) : Host.Outcome State Fault Refusal :=
  finish (encode .icsPut)
    (if rangeFits s 2 then .ok () (memWrite s s.argPtr.toNat (be16 (icsResult s.ics))) else .raise .bounds s.argPtr s)

end Sys2Proof.Machine
end

