-- ==== Sys2Proof/Machine/Sys.lean ====
section
/-! DEFINITION. The SYS unit: no-operation and soft reset (44_system.md). -/

namespace Sys2Proof.Machine

open Sys2Proof

/-- `NOP` does nothing (44_system.md R230). -/
def execNop (s : State) : Host.Outcome State Fault Refusal := finish (encode .nop) (.ok () s)

/-- `SYS.RESET`, the soft reset (44_system.md R231). -/
def execSysReset (s : State) : Host.Outcome State Fault Refusal := finish (encode .sysReset) (.ok () (softReset s))

end Sys2Proof.Machine
end

