-- ==== Sys2Proof/Machine/Dispatch.lean ====
section
/-! DEFINITION. One command executed: one arm per constructor of `Instr` (30_encoding.md R102, third case). -/

namespace Sys2Proof.Machine

open Sys2Proof

def exec (i : Instr) (s : State) : Host.Outcome State Fault Refusal :=
  match i with
  | .nop => Sys2Proof.Machine.execNop s
  | .sysReset => Sys2Proof.Machine.execSysReset s
  | .icsInit => Sys2Proof.Machine.execIcsInit s
  | .icsAdd => Sys2Proof.Machine.execIcsAdd s
  | .icsAddb imm8 => Sys2Proof.Machine.execIcsAddb imm8 s
  | .icsPh => Sys2Proof.Machine.execIcsPh s
  | .icsPut => Sys2Proof.Machine.execIcsPut s
  | .crcInit => Sys2Proof.Machine.execCrcInit s
  | .crcAdd => Sys2Proof.Machine.execCrcAdd s
  | .crcAddb imm8 => Sys2Proof.Machine.execCrcAddb imm8 s
  | .adlInit => Sys2Proof.Machine.execAdlInit s
  | .adlAdd => Sys2Proof.Machine.execAdlAdd s
  | .adlAddb imm8 => Sys2Proof.Machine.execAdlAddb imm8 s
  | .dnsClr => Sys2Proof.Machine.execDnsClr s
  | .dnsDec => Sys2Proof.Machine.execDnsDec s
  | .dnsEnc nc => Sys2Proof.Machine.execDnsEnc nc s

end Sys2Proof.Machine
end

