-- ==== Sys2Proof/Machine/Registers.lean ====
section
/-! DEFINITION. The register block and the two windows as the host reaches them (10_state.md R21 to R45, R52; 20_memory.md
R60 to R62). -/

namespace Sys2Proof.Machine

open Sys2Proof

/-- The registers of 10_state.md R52, one constructor each. -/
inductive Reg where
  | id
  | cmd
  | status
  | errCode
  | errPos
  | errCmd
  | argPtr
  | argCnt
  | icsSum
  | icsResult
  | phCtl
  | phProto
  | phLen
  | phSrc0
  | phSrc1
  | phSrc2
  | phSrc3
  | phDst0
  | phDst1
  | phDst2
  | phDst3
  | crcState
  | crcResult
  | adlSum
  | dnsBase
  | dnsLen
  | dnsPos
  | nameLen
  | dnsDcount
  | dnsEcount
  | cfgBufSize
  | cfgNameMax
  | cfgRegCap
  | cfgCrcInit
  | cfgCrcXorout
  deriving DecidableEq, Repr

/-- The access rights of 10_state.md R21. -/
inductive Access where
  /-- It can be read, and a write is an invalid access. -/
  | ro
  /-- It can be read and written. -/
  | rw
  /-- It can be written and reads as zero. -/
  | wo
  deriving DecidableEq, Repr

/-- The map of 10_state.md R52: byte offset, register, access. -/
def registerMap : List (Nat × Reg × Access) :=
  [ (0x00, .id, .ro), (0x04, .cmd, .wo), (0x08, .status, .ro), (0x0C, .errCode, .ro), (0x10, .errPos, .ro),
    (0x14, .errCmd, .ro), (0x18, .argPtr, .rw), (0x1C, .argCnt, .rw), (0x20, .icsSum, .ro), (0x24, .icsResult, .ro),
    (0x28, .phCtl, .rw), (0x2C, .phProto, .rw), (0x30, .phLen, .rw),
    (0x40, .phSrc0, .rw), (0x44, .phSrc1, .rw), (0x48, .phSrc2, .rw), (0x4C, .phSrc3, .rw),
    (0x50, .phDst0, .rw), (0x54, .phDst1, .rw), (0x58, .phDst2, .rw), (0x5C, .phDst3, .rw),
    (0x60, .crcState, .ro), (0x64, .crcResult, .ro), (0x70, .adlSum, .ro),
    (0x80, .dnsBase, .rw), (0x84, .dnsLen, .rw), (0x88, .dnsPos, .rw), (0x8C, .nameLen, .rw),
    (0x90, .dnsDcount, .ro), (0x94, .dnsEcount, .ro),
    (0xA0, .cfgBufSize, .ro), (0xA4, .cfgNameMax, .ro), (0xA8, .cfgRegCap, .ro), (0xAC, .cfgCrcInit, .ro),
    (0xB0, .cfgCrcXorout, .ro) ]

/-- A count shown in a 32-bit view (10_state.md R44, R45); a free value where it does not fit (log 14). -/
def viewWord (n : Nat) : Word := if n < 2 ^ 32 then BitVec.ofNat 32 n else Config.wideView n

/-- What a read of a register returns (10_state.md R22 to R45). Bits above a field read 0 (R21). -/
def readReg (s : State) : Reg → Word
  | .id => 0x43435031#32
  | .cmd => 0#32
  | .status => statusWord s
  | .errCode => s.errCode.setWidth 32
  | .errPos => s.errPos
  | .errCmd => s.errCmd
  | .argPtr => s.argPtr
  | .argCnt => s.argCnt
  | .icsSum => ((BitVec.ofBool s.odd ++ s.hold) ++ s.sum).setWidth 32
  | .icsResult => (icsResult s.ics).setWidth 32
  | .phCtl => s.phCtl.setWidth 32
  | .phProto => s.phProto.setWidth 32
  | .phLen => s.phLen
  | .phSrc0 => s.phSrc0
  | .phSrc1 => s.phSrc1
  | .phSrc2 => s.phSrc2
  | .phSrc3 => s.phSrc3
  | .phDst0 => s.phDst0
  | .phDst1 => s.phDst1
  | .phDst2 => s.phDst2
  | .phDst3 => s.phDst3
  | .crcState => s.crc
  | .crcResult => s.crc ^^^ s.params.crcXorout
  | .adlSum => adlValue s.adl
  | .dnsBase => s.dnsBase
  | .dnsLen => s.dnsLen
  | .dnsPos => s.dnsPos
  | .nameLen => s.nameLen
  | .dnsDcount => viewWord s.dreg.length
  | .dnsEcount => viewWord s.ereg.length
  | .cfgBufSize => viewWord s.params.bufSize
  | .cfgNameMax => viewWord s.params.nameMax
  | .cfgRegCap =>
    match s.params.regCap with
    | none => 0xFFFFFFFF#32
    | some n => viewWord n
  | .cfgCrcInit => s.params.crcInit
  | .cfgCrcXorout => s.params.crcXorout

/-- What a write of `v` to a register stores: the bits of the field (10_state.md R21, R28 to R43). `CMD` stores nothing
(R23), nor does a read-only register. -/
def writeReg (s : State) (r : Reg) (v : Word) : State :=
  match r with
  | .argPtr => { s with argPtr := v }
  | .argCnt => { s with argCnt := v }
  | .phCtl => { s with phCtl := v.extractLsb' 0 4 }
  | .phProto => { s with phProto := v.extractLsb' 0 8 }
  | .phLen => { s with phLen := v }
  | .phSrc0 => { s with phSrc0 := v }
  | .phSrc1 => { s with phSrc1 := v }
  | .phSrc2 => { s with phSrc2 := v }
  | .phSrc3 => { s with phSrc3 := v }
  | .phDst0 => { s with phDst0 := v }
  | .phDst1 => { s with phDst1 := v }
  | .phDst2 => { s with phDst2 := v }
  | .phDst3 => { s with phDst3 := v }
  | .dnsBase => { s with dnsBase := v }
  | .dnsLen => { s with dnsLen := v }
  | .dnsPos => s.setDnsPos v
  | .nameLen => s.setNameLen v
  | .id | .cmd | .status | .errCode | .errPos | .errCmd | .icsSum | .icsResult | .crcState | .crcResult | .adlSum
  | .dnsDcount | .dnsEcount | .cfgBufSize | .cfgNameMax | .cfgRegCap | .cfgCrcInit | .cfgCrcXorout => s

/-- What a valid host access reaches (20_memory.md R60). -/
inductive Target where
  /-- A register, with its access right. -/
  | reg (r : Reg) (access : Access)
  /-- `NAME[i]`. -/
  | nameByte (i : Nat)
  /-- `BUF[a]`. -/
  | bufByte (a : Nat)
  deriving DecidableEq, Repr

/-- What an access of `width` bits at the host address `addr` reaches, none when it is invalid whatever its direction
(20_memory.md R60 to R63): a register access is 32 bits wide at a mapped offset, all of which are multiples of 4; a window
access is 8 bits wide. -/
def accessTarget (p : Params) (width : Nat) (addr : Word) : Option Target :=
  if width = 32 then (mapGet addr.toNat registerMap).map fun ra => .reg ra.1 ra.2
  else if width = 8 then
    if 0x1000 ≤ addr.toNat ∧ addr.toNat < 0x1000 + p.nameMax then some (.nameByte (addr.toNat - 0x1000))
    else if 0x80000000 ≤ addr.toNat ∧ addr.toNat < 0x80000000 + p.bufSize then some (.bufByte (addr.toNat - 0x80000000))
    else none
  else none

/-- A target that can be written: all but a read-only register (20_memory.md R61). -/
def Target.writable : Target → Bool
  | .reg _ .ro => false
  | .reg _ _ | .nameByte _ | .bufByte _ => true

/-- What a valid read returns; a byte of a window stands in the low bits (20_memory.md R61, R62). -/
def readTarget (s : State) : Target → Word
  | .reg r _ => readReg s r
  | .nameByte i => (nameRead s i).setWidth 32
  | .bufByte a => (bufRead s a).setWidth 32

/-- What a valid write stores (20_memory.md R61, R62). -/
def storeTarget (s : State) (t : Target) (data : Word) : State :=
  match t with
  | .reg r _ => writeReg s r data
  | .nameByte i => nameWrite s i (data.extractLsb' 0 8)
  | .bufByte a => bufWrite s a (data.extractLsb' 0 8)

end Sys2Proof.Machine
end

