-- ==== Sys2Proof/Machine/Port.lean ====
section
/-! DEFINITION. The host port: what one host event does (20_memory.md R60 to R63, R80; 30_encoding.md R102). -/

namespace Sys2Proof.Machine

open Sys2Proof

/-- The host address of `CMD` (10_state.md R23). -/
def cmdAddr : Word := 0x04#32

/-- A read transaction. A valid one returns the value and changes nothing; an invalid one returns 0 and raises `E_ACCESS`
with the host address, and with 0 as the command word (20_memory.md R61 to R63). While `FAULT` is 1 the first is as usual
and the second records nothing new (R80). -/
def hostRead (s : State) (width : Nat) (addr : Word) : State :=
  match accessTarget s.params width addr with
  | some t => s.setRdata (some (readTarget s t))
  | none => (takeFault s .access addr 0#32).setRdata (some 0#32)

/-- A word written to `CMD` (30_encoding.md R102): while `FAULT` is 1 only the word of `SYS.RESET` executes; otherwise an
illegal word raises `E_ILLEGAL_CMD` and a legal one executes its command. -/
def commandWrite (s : State) (w : Word) : Host.Outcome State Fault Refusal :=
  if s.fault then
    if w = 0x01000000#32 then exec .sysReset s else .next s
  else
    match decode w with
    | .error _ => .next (takeFault s .illegalCmd 0#32 w)
    | .ok i => exec i s

/-- A write transaction. An invalid one stores nothing and raises `E_ACCESS` (20_memory.md R63); a valid one to `CMD`
executes; any other valid one stores, unless `FAULT` is 1 (R80). -/
def hostWrite (s : State) (width : Nat) (addr data : Word) : Host.Outcome State Fault Refusal :=
  match (accessTarget s.params width addr).filter Target.writable with
  | none => .next (takeFault s .access addr 0#32)
  | some (.reg .cmd _) => commandWrite s data
  | some t => .next (if s.fault then s else storeTarget s t data)

/-- One host event at a state whose `port` holds the events after it. -/
def hostEvent (s : State) : HostEvent → Host.Outcome State Fault Refusal
  | .read width addr => .next (hostRead s width addr)
  | .write width addr data => hostWrite s width addr data
  | .hardReset => .next (hardReset s)

/-- The state in which the head of the port is being served: it is taken off the list, and nothing has been returned to the
host yet. -/
def serving (s : State) (rest : List HostEvent) : State := (s.setPort rest).setRdata none

/-- The state with the fault registers clear, as they are while no fault has been raised (10_state.md R24 to R27). -/
def clearFaultRegs (s : State) : State :=
  if s.fault then { s with fault := false, errCode := 0#8, errPos := 0#32, errCmd := 0#32 } else s

/-- The state whose next host event writes the low `nbits` bits of `w` to `CMD` (log 7). A standing fault is cleared, since
while it stands no command but `SYS.RESET` runs. -/
def placeCommand (s : State) (nbits w : Nat) : State :=
  (clearFaultRegs s).setPort (.write 32 cmdAddr (BitVec.ofNat 32 (w % 2 ^ nbits)) :: s.port)

end Sys2Proof.Machine
end

