-- ==== Sys2Proof/Machine/Step.lean ====
section
/-! DEFINITION. One step of the machine: the next host event, whole (00_scope.md R7, R8). -/

namespace Sys2Proof.Machine

open Sys2Proof

/-- One step. With no host event to come the engine waits and nothing changes (70_reset_and_hazards.md R280; log 1). -/
def step (s : State) : Host.Outcome State Fault Refusal :=
  match s.port with
  | [] => .next s
  | ev :: rest => hostEvent (serving s rest) ev

/-- The state whose next step runs the command in the low `nbits` bits of `w` (log 7). -/
def State.withFetchWord (s : State) (nbits w : Nat) : State := placeCommand s nbits w

end Sys2Proof.Machine
end

