-- ==== Sys2Proof/Machine/Names.lean ====
section
/-! DEFINITION. DNS names as lists of labels, and their form in the message (43_dns_name.md R190 to R192): what the
statements about `DNS.DEC` and `DNS.ENC` are written in. No command calls these functions. -/

namespace Sys2Proof.Machine

open Sys2Proof

/-- Labels joined by the separator, none after the last (43_dns_name.md R190). -/
def joinLabels : List (List Byte) → List Byte
  | [] => []
  | [l] => l
  | l :: l' :: ls => l ++ dot :: joinLabels (l' :: ls)

/-- The name that the labels `ls` and then the already joined name `tail` make; an empty `tail` adds nothing. -/
def nameText (ls : List (List Byte)) (tail : List Byte) : List Byte :=
  if tail = [] then joinLabels ls else joinLabels (ls ++ [tail])

/-- How a name ends in the message (43_dns_name.md R191). -/
inductive NameEnd where
  /-- By the byte 0x00. -/
  | terminator
  /-- By a pointer to `off`. -/
  | pointer (off : Word)
  deriving DecidableEq, Repr

/-- A label in the message: its length byte, then its bytes (R191). -/
def labelItem (l : List Byte) : List Byte := BitVec.ofNat 8 l.length :: l

/-- The labels `ls` in the message, one after the other. -/
def labelItems (ls : List (List Byte)) : List Byte := (ls.map labelItem).flatten

/-- The bytes that end a name (R191, R192). -/
def endItem : NameEnd → List Byte
  | .terminator => [0x00#8]
  | .pointer off => pointerBytes off

/-- A name in the message (R191). -/
def wireName (ls : List (List Byte)) (e : NameEnd) : List Byte := labelItems ls ++ endItem e

/-- The suffixes of a name whose labels `ls` stand from the position `pos` on, each with the position of its first label
(43_dns_name.md R190, R197, R201). -/
def suffixesAt (pos : Nat) (tail : List Byte) : List (List Byte) → List (Nat × List Byte)
  | [] => []
  | l :: ls => (pos, nameText (l :: ls) tail) :: suffixesAt (pos + 1 + l.length) tail ls

/-- The suffix that begins at the position `off`, if one of `sfx` does. -/
def suffixAt (off : Word) (sfx : List (Nat × List Byte)) : Option (List Byte) :=
  (sfx.find? fun e => e.1 = off.toNat).map fun e => e.2

/-- The position at which the suffix `nm` begins, if it is one of `sfx`. -/
def positionOf (nm : List Byte) (sfx : List (Nat × List Byte)) : Option Word :=
  (sfx.find? fun e => e.2 = nm).map fun e => BitVec.ofNat 32 e.1

/-- The number of separators in a name. -/
def dotCount (nm : List Byte) : Nat := nm.count dot

end Sys2Proof.Machine
end

