-- ==== Sys2Proof/Safety.lean ====
section
/-! DEFINITION. What counts as a run that has not gone wrong, and the invariant of the machine, in the terms the statements
use. -/

namespace Sys2Proof.Safety

open Sys2Proof Sys2Proof.Machine

/-- The run has not gone wrong: `STATUS.FAULT` is 0 (00_scope.md R8; 60_exceptions.md R240). -/
abbrev Running (s : State) : Prop := s.fault = false

/-- The codes of 60_exceptions.md R241, and no other, are ever recorded. -/
def recordedCodes : List Byte :=
  [0x01#8, 0x02#8, 0x03#8, 0x10#8, 0x11#8, 0x12#8, 0x20#8, 0x21#8, 0x22#8, 0x23#8, 0x24#8, 0x25#8, 0x26#8, 0x27#8]

/-- The fault registers are 0 while `FAULT` is 0 (10_state.md R25, R26, R27); while it is 1, `ERR_CODE` is a code of
60_exceptions.md R241. -/
abbrev FaultRegsLegal (s : State) : Prop :=
  (s.fault = false → s.errCode = 0#8 ∧ s.errPos = 0#32 ∧ s.errCmd = 0#32) ∧
  (s.fault = true → s.errCode ∈ recordedCodes)

/-- `HOLD` is 0 when `ODD` is 0 (10_state.md R30). -/
abbrev HoldLegal (s : State) : Prop := s.odd = false → s.hold = 0#8

/-- `A` and `B` are less than 65521 (10_state.md R39). -/
abbrev AdlerLegal (s : State) : Prop := s.adlA.toNat < 65521 ∧ s.adlB.toNat < 65521

/-- A registry holds at most `REG_CAP` entries (10_state.md R47, R48). -/
abbrev WithinCap (cap : Option Nat) (n : Nat) : Prop := ∀ c ∈ cap, n ≤ c

/-- A name of a registry has 1 to `NAME_MAX` bytes (10_state.md R47, R48). -/
abbrev NameLegal (nameMax : Nat) (nm : List Byte) : Prop := 1 ≤ nm.length ∧ nm.length ≤ nameMax

/-- The decode registry is a finite map in canonical form, within its capacity, of legal names (10_state.md R47). -/
abbrev DregLegal (s : State) : Prop :=
  mapSorted wordLt s.dreg ∧ WithinCap s.params.regCap s.dreg.length ∧ ∀ e ∈ s.dreg, NameLegal s.params.nameMax e.2

/-- The encode registry is a finite map in canonical form, within its capacity, of legal names (10_state.md R48). -/
abbrev EregLegal (s : State) : Prop :=
  mapSorted nameLt s.ereg ∧ WithinCap s.params.regCap s.ereg.length ∧ ∀ e ∈ s.ereg, NameLegal s.params.nameMax e.1

/-- The invariant of the machine, kept by every step: legal parameters, both memories in canonical form and within their
sizes, and the state of each unit as 10_state.md says it always is. -/
structure Inv (s : State) : Prop where
  params : s.params.wf = true
  buf : Memory.wf s.params.bufSize s.buf
  name : Memory.wf s.params.nameMax s.name
  faultRegs : FaultRegsLegal s
  hold : HoldLegal s
  adler : AdlerLegal s
  dreg : DregLegal s
  ereg : EregLegal s

end Sys2Proof.Safety
end

