-- ==== Sys2Proof/Certificates/Slice0/Obligations.lean ====
section
/-! DEFINITION. The statements for the provers, one `def Obligations.<Name> : Prop` each, listed in OBLIGATIONS.json. The
definitions before the first of them only shorten the statements. -/

namespace Sys2Proof.Claims

open Sys2Proof Sys2Proof.Machine

/-- `s` with one more host event at the head of its port, the next to be served. That host events wait in a list, one taken
a step, and that what a read returns stands in `rdata`, is the model's way to show the host (log 1, log 2). -/
def withEvent (s : State) (ev : HostEvent) : State := { s with port := ev :: s.port }

/-- `s` with a valid 32-bit write of the command word `w` to `CMD` as its next host event (30_encoding.md R90). -/
def issue (s : State) (w : Word) : State := withEvent s (.write 32 0x04#32 w)

/-- `s` with the four fault registers written (60_exceptions.md R243), and nothing else changed. -/
def faulted (s : State) (code : Byte) (pos cmd : Word) : State :=
  { s with fault := true, errCode := code, errPos := pos, errCmd := cmd }

/-- The byte `k` of the message of `s`: `BUF[DNS_BASE + k]` (10_state.md R40). -/
def messageByte (s : State) (k : Nat) : Byte := bufRead s (s.dnsBase.toNat + k)

/-- The message of `s` holds the bytes `bs` from the position `DNS_POS` on. -/
def messageHolds (s : State) (bs : List Byte) : Prop :=
  ∀ k < bs.length, messageByte s (s.dnsPos.toNat + k) = bs.getD k 0#8

/-- The window test of 20_memory.md R67 passes. -/
def windowFits (s : State) : Prop := s.dnsBase.toNat + s.dnsLen.toNat ≤ s.params.bufSize

/-- There is room in a registry of `n` entries for `k` more (43_dns_name.md R195). -/
def roomFor (s : State) (n k : Nat) : Prop := ∀ cap ∈ s.params.regCap, n + k ≤ cap

/-- Every value that a 32-bit view shows fits 32 bits (10_state.md R44, R45). -/
def capFits (p : Params) : Prop := ∀ cap ∈ p.regCap, cap < 2 ^ 32

/-- The register map of 10_state.md R52 with what a host read of each register returns after reset. -/
def resetReads (p : Params) : List (Nat × Word) :=
  [ (0x00, 0x43435031#32), (0x04, 0#32), (0x08, 0#32), (0x0C, 0#32), (0x10, 0#32), (0x14, 0#32), (0x18, 0#32),
    (0x1C, 0#32), (0x20, 0#32), (0x24, 0x0000FFFF#32), (0x28, 0#32), (0x2C, 0#32), (0x30, 0#32),
    (0x40, 0#32), (0x44, 0#32), (0x48, 0#32), (0x4C, 0#32), (0x50, 0#32), (0x54, 0#32), (0x58, 0#32), (0x5C, 0#32),
    (0x60, p.crcInit), (0x64, p.crcInit ^^^ p.crcXorout), (0x70, 0x00000001#32),
    (0x80, 0#32), (0x84, 0#32), (0x88, 0#32), (0x8C, 0#32), (0x90, 0#32), (0x94, 0#32),
    (0xA0, BitVec.ofNat 32 p.bufSize), (0xA4, BitVec.ofNat 32 p.nameMax),
    (0xA8, match p.regCap with
      | none => 0xFFFFFFFF#32
      | some n => BitVec.ofNat 32 n),
    (0xAC, p.crcInit), (0xB0, p.crcXorout) ]

/-- The offsets of the writable registers of 10_state.md R52 but `CMD`, each with the bits that a write stores. -/
def writableRegisters : List (Nat × Word) :=
  [ (0x18, 0xFFFFFFFF#32), (0x1C, 0xFFFFFFFF#32), (0x28, 0x0000000F#32), (0x2C, 0x000000FF#32), (0x30, 0xFFFFFFFF#32),
    (0x40, 0xFFFFFFFF#32), (0x44, 0xFFFFFFFF#32), (0x48, 0xFFFFFFFF#32), (0x4C, 0xFFFFFFFF#32),
    (0x50, 0xFFFFFFFF#32), (0x54, 0xFFFFFFFF#32), (0x58, 0xFFFFFFFF#32), (0x5C, 0xFFFFFFFF#32),
    (0x80, 0xFFFFFFFF#32), (0x84, 0xFFFFFFFF#32), (0x88, 0xFFFFFFFF#32), (0x8C, 0xFFFFFFFF#32) ]

/-- The register map of 10_state.md R52, whole: each offset with the number that a read returns (R22 to R45), which for a
writable register is the state that the commands take their operands from. -/
def registerViews (s : State) : List (Nat × Nat) :=
  [ (0x00, 0x43435031), (0x04, 0), (0x08, if s.fault then 1 else 0), (0x0C, s.errCode.toNat), (0x10, s.errPos.toNat),
    (0x14, s.errCmd.toNat), (0x18, s.argPtr.toNat), (0x1C, s.argCnt.toNat),
    (0x20, (if s.odd then 1 else 0) * 2 ^ 24 + s.hold.toNat * 2 ^ 16 + s.sum.toNat),
    (0x24, 0xFFFF - (if s.odd then add1c s.sum (s.hold ++ 0x00#8) else s.sum).toNat),
    (0x28, s.phCtl.toNat), (0x2C, s.phProto.toNat), (0x30, s.phLen.toNat),
    (0x40, s.phSrc0.toNat), (0x44, s.phSrc1.toNat), (0x48, s.phSrc2.toNat), (0x4C, s.phSrc3.toNat),
    (0x50, s.phDst0.toNat), (0x54, s.phDst1.toNat), (0x58, s.phDst2.toNat), (0x5C, s.phDst3.toNat),
    (0x60, s.crc.toNat), (0x64, (s.crc ^^^ s.params.crcXorout).toNat), (0x70, s.adlB.toNat * 2 ^ 16 + s.adlA.toNat),
    (0x80, s.dnsBase.toNat), (0x84, s.dnsLen.toNat), (0x88, s.dnsPos.toNat), (0x8C, s.nameLen.toNat),
    (0x90, s.dreg.length), (0x94, s.ereg.length),
    (0xA0, s.params.bufSize), (0xA4, s.params.nameMax), (0xA8, s.params.regCap.getD 0xFFFFFFFF),
    (0xAC, s.params.crcInit.toNat), (0xB0, s.params.crcXorout.toNat) ]

/-- The offsets of the read-only registers of 10_state.md R52. -/
def readOnlyOffsets : List Nat :=
  [0x00, 0x08, 0x0C, 0x10, 0x14, 0x20, 0x24, 0x60, 0x64, 0x70, 0x90, 0x94, 0xA0, 0xA4, 0xA8, 0xAC, 0xB0]

/-- A byte access inside one of the two windows (20_memory.md R60, R62). -/
abbrev windowAccess (p : Params) (width : Nat) (addr : Word) : Prop :=
  width = 8 ∧ ((0x1000 ≤ addr.toNat ∧ addr.toNat < 0x1000 + p.nameMax) ∨
    (0x80000000 ≤ addr.toNat ∧ addr.toNat < 0x80000000 + p.bufSize))

/-- A valid read (20_memory.md R61, R62): 32 bits at the offset of a register, or 8 bits in a window. -/
abbrev validRead (p : Params) (width : Nat) (addr : Word) : Prop :=
  (width = 32 ∧ (addr.toNat = 0x04 ∨ addr.toNat ∈ readOnlyOffsets ∨ addr.toNat ∈ writableRegisters.map Prod.fst)) ∨
    windowAccess p width addr

/-- A valid write (20_memory.md R61, R62): 32 bits at the offset of a register that is not read-only, or 8 bits in a
window. -/
abbrev validWrite (p : Params) (width : Nat) (addr : Word) : Prop :=
  (width = 32 ∧ (addr.toNat = 0x04 ∨ addr.toNat ∈ writableRegisters.map Prod.fst)) ∨ windowAccess p width addr

/-- The commands that change the ICS unit's registers (10_state.md R30), but the reset. -/
def changesIcs : Instr → Bool
  | .icsInit | .icsAdd | .icsAddb _ | .icsPh => true
  | _ => false

/-- The commands that change `CRC` (10_state.md R37), but the reset. -/
def changesCrc : Instr → Bool
  | .crcInit | .crcAdd | .crcAddb _ => true
  | _ => false

/-- The commands that change `A` and `B` (10_state.md R39), but the reset. -/
def changesAdl : Instr → Bool
  | .adlInit | .adlAdd | .adlAddb _ => true
  | _ => false

/-- The commands that write `BUF` (10_state.md R49). -/
def writesBuf : Instr → Bool
  | .icsPut | .dnsEnc _ => true
  | _ => false

/-- The codes of the eight causes that only the DNS commands raise (60_exceptions.md R241). -/
def dnsCodes : List Byte := [0x20#8, 0x21#8, 0x22#8, 0x23#8, 0x24#8, 0x25#8, 0x26#8, 0x27#8]

/-- The codes that each command can raise once decoded (60_exceptions.md R241, R248). -/
def ownFaults : Instr → List Byte
  | .icsAdd | .crcAdd | .adlAdd | .icsPut => [0x03#8]
  | .icsPh => [0x10#8, 0x11#8, 0x12#8]
  | .dnsDec => [0x03#8, 0x20#8, 0x21#8, 0x22#8, 0x23#8]
  | .dnsEnc _ => [0x03#8, 0x22#8, 0x23#8, 0x24#8, 0x25#8, 0x26#8, 0x27#8]
  | .nop | .sysReset | .icsInit | .icsAddb _ | .crcInit | .crcAddb _ | .adlInit | .adlAddb _ | .dnsClr => []

/-- A label that `DNS.ENC` can write (43_dns_name.md R191): 1 to 63 bytes, no separator among them. -/
def encodableLabel (l : List Byte) : Prop := 1 ≤ l.length ∧ l.length ≤ 63 ∧ dot ∉ l

/-- How many of the positions of `sfx` are not yet keys of the decode registry. -/
def newKeys (s : State) (sfx : List (Nat × List Byte)) : Nat :=
  (sfx.filter fun e => (mapGet (BitVec.ofNat 32 e.1) s.dreg).isNone).length

/-- What `RegPut` does to a registry (43_dns_name.md R195), whatever its keys and values. -/
def insertionLaw {κ β : Type} [DecidableEq κ] (cap : Option Nat) (lt : κ → κ → Bool) (m : List (κ × β)) (k : κ) (v : β) :
    Prop :=
  (regPut cap lt m k v = none ↔ mapGet k m = none ∧ cap = some m.length) ∧
  ∀ n, regPut cap lt m k v = some n →
    mapSorted lt n ∧ (∀ j, mapGet j n = if j = k then some v else mapGet j m) ∧
    n.length = if (mapGet k m).isSome then m.length else m.length + 1

/-- A name to encode is in `NAME`, it is not the root name, and the window lies in `BUF`. -/
def nameGiven (s : State) : Prop := windowFits s ∧ 0 < s.nameLen.toNat ∧ s.nameLen.toNat ≤ s.params.nameMax

/-- The whole name can be registered: it is not, and the encode registry is not full. -/
def nameIsNew (s : State) : Prop := mapGet (currentName s) s.ereg = none ∧ s.params.regCap ≠ some s.ereg.length

/-- `m` is the encode registry of `s` with the whole name put at `DNS_POS`. -/
def nameRegistered (s : State) (m : List (List Byte × Word)) : Prop :=
  ∀ nm, mapGet nm m = if nm = currentName s then some s.dnsPos else mapGet nm s.ereg

/-- The name's first label is empty. -/
def firstLabelEmpty (s : State) : Prop := nameRead s 0 = dot

/-- The name's first label has more than 63 bytes. -/
def firstLabelLong (s : State) : Prop := 63 < s.nameLen.toNat ∧ ∀ i ≤ 63, nameRead s i ≠ dot

/-- The two registries of `s` mirror each other: what a name is registered at for encoding is where it is found on
decoding (the induction hypothesis of 43_dns_name.md R205). -/
def mirrored (s : State) : Prop := ∀ nm off, mapGet nm s.ereg = some off → mapGet off s.dreg = some nm

/-- Every offset registered for encoding lies before `DNS_POS`: the pass has moved forward only. -/
def registeredBefore (s : State) : Prop := ∀ nm off, mapGet nm s.ereg = some off → off.toNat < s.dnsPos.toNat

end Sys2Proof.Claims

open Sys2Proof Sys2Proof.Machine Sys2Proof.Safety Sys2Proof.Claims

/-! ### Reset -/

/-- 10_state.md R52, R282: what the host reads from every register of a machine just reset, whatever its parameters; both
registries are empty, and every byte of `NAME` and `BUF` is unspecified, which the model states as its free value (log 5). -/
def Obligations.ResetRegisterReads : Prop :=
  ∀ p : Params, p.wf = true → capFits p →
    (∀ e ∈ resetReads p, step (withEvent (State.resetWith p) (.read 32 (BitVec.ofNat 32 e.1))) =
      .next { State.resetWith p with rdata := some e.2 }) ∧
    (State.resetWith p).dreg = [] ∧ (State.resetWith p).ereg = [] ∧
    (∀ a, bufRead (State.resetWith p) a = Config.bufInit 0 a) ∧
    (∀ i, nameRead (State.resetWith p) i = Config.nameInit 0 i)

/-- 70_reset_and_hazards.md R280 as the model holds it (log 6): the hard reset puts every register at its reset value,
empties both registries and leaves every byte of `NAME` and `BUF` unspecified; and R281: the soft reset gives the same state
but that `NAME` and `BUF` keep their contents. -/
def Obligations.HardResetEvent : Prop :=
  ∀ s : State,
    ∃ u, step (withEvent s .hardReset) = .next u ∧
      u = { State.resetWith s.params with epoch := s.epoch + 1, port := s.port } ∧
      (∀ a, bufRead u a = Config.bufInit (s.epoch + 1) a) ∧ (∀ i, nameRead u i = Config.nameInit (s.epoch + 1) i) ∧
      exec .sysReset s = .next { u with name := s.name, buf := s.buf, epoch := s.epoch, rdata := s.rdata }

/-- 44_system.md R231: `SYS.RESET` from every state, also while `FAULT` is 1, where it is the only word that executes; a
variant of the word is illegal, or ignored while `FAULT` is 1; the views follow. -/
def Obligations.SysResetRestoresResetValues : Prop :=
  ∀ s : State,
    (∃ t, exec .sysReset s = .next t ∧
      t = { s with
            fault := false, errCode := 0#8, errPos := 0#32, errCmd := 0#32, argPtr := 0#32, argCnt := 0#32,
            sum := 0#16, hold := 0#8, odd := false, phCtl := 0#4, phProto := 0#8, phLen := 0#32,
            phSrc0 := 0#32, phSrc1 := 0#32, phSrc2 := 0#32, phSrc3 := 0#32,
            phDst0 := 0#32, phDst1 := 0#32, phDst2 := 0#32, phDst3 := 0#32,
            crc := s.params.crcInit, adlA := 1#16, adlB := 0#16,
            dnsBase := 0#32, dnsLen := 0#32, dnsPos := 0#32, nameLen := 0#32, dreg := [], ereg := [] } ∧
      (∀ a, bufRead t a = bufRead s a) ∧ (∀ i, nameRead t i = nameRead s i) ∧
      readReg t .icsResult = 0x0000FFFF#32 ∧ readReg t .crcResult = s.params.crcInit ^^^ s.params.crcXorout ∧
      readReg t .dnsDcount = 0#32 ∧ readReg t .dnsEcount = 0#32) ∧
    commandWrite s 0x01000000#32 = exec .sysReset s ∧
    (∀ w : Word, s.fault = true → w ≠ 0x01000000#32 → commandWrite s w = .next s) ∧
    (∀ w : Word, s.fault = false → w.extractLsb' 24 8 = 0x01#8 → w ≠ 0x01000000#32 →
      commandWrite s w = .next (faulted s 0x01#8 0#32 w))

/-! ### The host port -/

/-- 00_scope.md R7, 30_encoding.md R98, 60_exceptions.md R254: whatever the state and the host event, the step completes
with a next state, and takes exactly one event off the port; with no event to come the engine waits and nothing changes
(70_reset_and_hazards.md R280, as log 1 has the host's side). -/
def Obligations.EveryStepCompletes : Prop :=
  ∀ s : State, (∃ t, step s = .next t ∧ t.port = s.port.tail) ∧ (s.port = [] → step s = .next s)

/-- 10_state.md R20: the engine's state is the whole of what a transaction works on. No step changes the parameters
(70_reset_and_hazards.md R297); and what a step makes of the engine's state, and what it returns, depend on that state, the
parameters, the number of hard resets (which stands for the unspecified bytes, log 5, log 6) and the event served alone: not
on the host events still to come (log 1), nor on what was returned before (log 2). -/
def Obligations.EngineStateStandsAlone : Prop :=
  (∀ s t : State, step s = .next t → t.params = s.params) ∧
  ∀ s s' t t' : State, s.toEngineState = s'.toEngineState → s.params = s'.params → s.epoch = s'.epoch →
    s.port.head? = s'.port.head? → step s = .next t → step s' = .next t' →
    t.toEngineState = t'.toEngineState ∧ t.epoch = t'.epoch ∧ (s.port ≠ [] → t.rdata = t'.rdata)

/-- A word written to `CMD` is the model's step (log 1): whatever the word, the step is the `CMD` write of it at the state
with the event off the port and nothing returned to the host yet; and, 30_encoding.md R102, third case: while `FAULT` is 0 a
legal word executes its command there. -/
def Obligations.StepRunsDecodedCommand : Prop :=
  (∀ (s : State) (w : Word), step (issue s w) = commandWrite { s with rdata := none } w) ∧
  ∀ (s : State) (w : Word) (i : Instr), s.fault = false → decode w = .ok i →
    step (issue s w) = exec i { s with rdata := none }

/-- 30_encoding.md R96, R97: an illegal word raises `E_ILLEGAL_CMD` with position 0 and changes nothing else. -/
def Obligations.IllegalWordRaises : Prop :=
  ∀ (s : State) (w : Word), s.fault = false →
    (w.extractLsb' 9 15 ≠ 0#15 ∨ (w.getLsbD 8 = true ∧ w.extractLsb' 24 8 ≠ 0x42#8) ∨
      (w.extractLsb' 0 8 ≠ 0#8 ∧ w.extractLsb' 24 8 ∉ [0x12#8, 0x22#8, 0x32#8]) ∨
      w.extractLsb' 24 8 ∉ [0x00#8, 0x01#8, 0x10#8, 0x11#8, 0x12#8, 0x13#8, 0x15#8, 0x20#8, 0x21#8, 0x22#8, 0x30#8,
        0x31#8, 0x32#8, 0x40#8, 0x41#8, 0x42#8]) →
    commandWrite s w = .next (faulted s 0x01#8 0#32 w)

/-- 20_memory.md R63: an invalid access returns 0 or stores nothing and raises `E_ACCESS` with the host address, and with
`ERR_CMD` 0; while a fault stands it records nothing (R80). -/
def Obligations.InvalidAccessRaises : Prop :=
  ∀ (s : State) (width : Nat) (addr data : Word),
    (¬ validRead s.params width addr →
      step (withEvent s (.read width addr)) = .next
        (if s.fault then { s with rdata := some 0#32 } else faulted { s with rdata := some 0#32 } 0x02#8 addr 0#32)) ∧
    (¬ validWrite s.params width addr →
      step (withEvent s (.write width addr data)) = .next
        (if s.fault then { s with rdata := none } else faulted { s with rdata := none } 0x02#8 addr 0#32))

/-- 20_memory.md R72, R80: a valid read, also while `FAULT` is 1, has no effect but the value returned; a window read
returns the byte. -/
def Obligations.ValidReadsHaveNoSideEffect : Prop :=
  ∀ (s : State) (width : Nat) (addr : Word), s.params.wf = true → validRead s.params width addr →
    ∃ v, step (withEvent s (.read width addr)) = .next { s with rdata := some v } ∧
      (∀ i < s.params.nameMax, width = 8 → addr.toNat = 0x1000 + i → v = (nameRead s i).setWidth 32) ∧
      (∀ a < s.params.bufSize, width = 8 → addr.toNat = 0x80000000 + a → v = (bufRead s a).setWidth 32)

/-- 10_state.md R22 to R45, R52: what the host reads at the offset of each of the 35 registers, at every state whose counts
and parameters fit the 32 bits of their views. With RegisterWriteReadsBack it says which state a write at an offset reaches. -/
def Obligations.RegistersShowState : Prop :=
  ∀ s : State, s.params.wf = true → capFits s.params → s.dreg.length < 2 ^ 32 → s.ereg.length < 2 ^ 32 →
    ∀ e ∈ registerViews s,
      ∃ v : Word, step (withEvent s (.read 32 (BitVec.ofNat 32 e.1))) = .next { s with rdata := some v } ∧ v.toNat = e.2

/-- 20_memory.md R61, 10_state.md R21: a write to a writable register stores the bits of its field, which the next read
returns, and every other register that the host can write reads as before; memory, the registries and the units' running
values keep theirs. -/
def Obligations.RegisterWriteReadsBack : Prop :=
  ∀ (s : State) (v : Word), s.fault = false → ∀ e ∈ writableRegisters,
    ∃ t, step (withEvent s (.write 32 (BitVec.ofNat 32 e.1) v)) = .next t ∧
      step (withEvent t (.read 32 (BitVec.ofNat 32 e.1))) = .next { t with rdata := some (v &&& e.2) } ∧
      (∀ e' ∈ writableRegisters, e'.1 ≠ e.1 → ∀ u u', step (withEvent s (.read 32 (BitVec.ofNat 32 e'.1))) = .next u →
        step (withEvent t (.read 32 (BitVec.ofNat 32 e'.1))) = .next u' → u'.rdata = u.rdata) ∧
      t.fault = false ∧ t.errCode = s.errCode ∧ t.errPos = s.errPos ∧ t.errCmd = s.errCmd ∧ t.sum = s.sum ∧
      t.hold = s.hold ∧ t.odd = s.odd ∧ t.crc = s.crc ∧ t.adlA = s.adlA ∧ t.adlB = s.adlB ∧ t.name = s.name ∧
      t.buf = s.buf ∧ t.dreg = s.dreg ∧ t.ereg = s.ereg ∧ t.epoch = s.epoch ∧ t.params = s.params

/-- 20_memory.md R62, R75: a byte that the host writes through a window is the byte read from then on; every other byte of
both memories, and everything else, is as before. -/
def Obligations.WindowWriteStoresOneByte : Prop :=
  ∀ (s : State) (data : Word), s.params.wf = true → s.fault = false →
    (∀ a < s.params.bufSize,
      ∃ t, step (withEvent s (.write 8 (BitVec.ofNat 32 (0x80000000 + a)) data)) = .next t ∧
        t = { s with rdata := none, buf := t.buf } ∧
        ∀ x, bufRead t x = if x = a then data.extractLsb' 0 8 else bufRead s x) ∧
    (∀ i < s.params.nameMax,
      ∃ t, step (withEvent s (.write 8 (BitVec.ofNat 32 (0x1000 + i)) data)) = .next t ∧
        t = { s with rdata := none, name := t.name } ∧
        ∀ x, nameRead t x = if x = i then data.extractLsb' 0 8 else nameRead s x)

/-! ### Encoding -/

/-- 30_encoding.md R92: a few words written out from the table decode to the commands they stand for. -/
def Obligations.SampleWordsDecode : Prop :=
  decode 0x00000000#32 = .ok .nop ∧ decode 0x01000000#32 = .ok .sysReset ∧ decode 0x120000F2#32 = .ok (.icsAddb 0xF2#8) ∧
  decode 0x13000000#32 = .ok .icsPh ∧ decode 0x22000031#32 = .ok (.crcAddb 0x31#8) ∧
  decode 0x31000000#32 = .ok .adlAdd ∧ decode 0x42000000#32 = .ok (.dnsEnc false) ∧
  decode 0x42000100#32 = .ok (.dnsEnc true)

/-- 30_encoding.md R92, R94, R95: decode and encode agree, both ways: every command, with every operand, has one word, and
that word is all that decodes to it. -/
def Obligations.DecodeEncodeAgree : Prop :=
  ∀ (w : Word) (i : Instr), decode w = .ok i ↔ encode i = w

/-- 30_encoding.md R92, R98: a word decodes exactly when it matches a row of the opcode map, it matches one row at most, and
the row bears the mnemonic of the command decoded; the all-zero word is `NOP` and the all-ones word is illegal. -/
def Obligations.DecoderFollowsOpcodeMap : Prop :=
  (∀ w : Word, (∃ i, decode w = .ok i) ↔ ∃ r ∈ commandRows, w &&& r.mask = r.pattern) ∧
  (∀ w : Word, ∀ r ∈ commandRows, ∀ r' ∈ commandRows, w &&& r.mask = r.pattern → w &&& r'.mask = r'.pattern → r = r') ∧
  (∀ (w : Word) (i : Instr), decode w = .ok i → ∀ r ∈ commandRows, w &&& r.mask = r.pattern → r.mnemonic = i.mnemonic) ∧
  decode 0x00000000#32 = .ok .nop ∧ (∃ r, decode 0xFFFFFFFF#32 = .error r)

/-! ### Faults -/

/-- 60_exceptions.md R243: fault entry. The first fault is recorded with its cause, its position and the command word, and
what the command had assigned stands; while a fault stands nothing is recorded. -/
def Obligations.FaultEntryRecordsFirstFault : Prop :=
  ∀ (s : State) (c : ErrCode) (pos w : Word),
    finish w (.raise c pos s) = .next (if s.fault then s else faulted s (errCodeByte c) pos w)

/-- 60_exceptions.md R245, 20_memory.md R80: while `FAULT` is 1 no host event but a hard reset and the write of exactly
`0x01000000` to `CMD` changes anything of the engine; only the event is taken and the value of a read returned. So `FAULT`,
once set, is cleared by `SYS.RESET` and by hard reset only (10_state.md R24). -/
def Obligations.StoppedEngineIgnoresWrites : Prop :=
  (∀ (s : State) (ev : HostEvent), s.fault = true → ev ≠ .hardReset → ev ≠ .write 32 0x04#32 0x01000000#32 →
    ∃ v, step (withEvent s ev) = .next { s with rdata := v } ∧
      (∀ width addr data, ev = .write width addr data → v = none) ∧
      (∀ width addr, ev = .read width addr → ¬ validRead s.params width addr → v = some 0#32)) ∧
  (∀ s t : State, s.fault = true → step s = .next t → t.fault = false →
    s.port.head? = some .hardReset ∨ s.port.head? = some (.write 32 0x04#32 0x01000000#32))

/-- 10_state.md R26, R27, 60_exceptions.md R243: a command that raises the first fault leaves its own word in `ERR_CMD`, and
the code of a cause that it can raise; for a DNS fault `ERR_POS` is `DNS_POS` at the moment of the fault. -/
def Obligations.FaultingCommandIsRecorded : Prop :=
  ∀ (i : Instr) (s t : State), s.fault = false → exec i s = .next t → t.fault = true →
    t.errCmd = encode i ∧ t.errCode ∈ ownFaults i ∧ (t.errCode ∈ dnsCodes → t.errPos = t.dnsPos)

/-- 60_exceptions.md R244: a fault of a command that does not belong to the DNS unit, and `E_BOUNDS` of one that does,
leaves everything but the fault registers as it was. -/
def Obligations.EarlyFaultsChangeNothingElse : Prop :=
  ∀ (i : Instr) (s t : State), s.fault = false → exec i s = .next t → t.fault = true → t.errCode ∉ dnsCodes →
    t = faulted s t.errCode t.errPos t.errCmd

/-- 60_exceptions.md R244: after a fault of `DNS.DEC` the decode registry is unchanged, except after `E_DNS_REG_FULL`, and
`DNS_POS` has moved forward only; `BUF` and `EREG` are untouched. -/
def Obligations.FaultingDecodeRegistersNothing : Prop :=
  ∀ s t : State, s.params.wf = true → s.fault = false → exec .dnsDec s = .next t → t.fault = true →
    (t.errCode ≠ 0x23#8 → t.dreg = s.dreg) ∧ s.dnsPos.toNat ≤ t.dnsPos.toNat ∧ t.buf = s.buf ∧ t.ereg = s.ereg

/-! ### SYS and ICS -/

/-- 44_system.md R230: `NOP` does nothing, every other word with opcode 0 is illegal, and while `FAULT` is 1 the write is
ignored, with the same result: the fault stands. -/
def Obligations.NopDoesNothing : Prop :=
  ∀ s : State, exec .nop s = .next s ∧ encode .nop = 0x00000000#32 ∧ commandWrite s 0x00000000#32 = .next s ∧
    ∀ w : Word, w.extractLsb' 24 8 = 0x00#8 → w ≠ 0x00000000#32 → s.fault = false →
      commandWrite s w = .next (faulted s 0x01#8 0#32 w)

/-- 40_internet_checksum.md R122: `ICS.INIT` clears the unit's registers and nothing else; twice is the same as once; after
reset it changes nothing. -/
def Obligations.IcsInitStartsStream : Prop :=
  encode .icsInit = 0x10000000#32 ∧
  (∀ s : State, ∃ t, exec .icsInit s = .next t ∧ t = { s with sum := 0#16, hold := 0#8, odd := false } ∧
    exec .icsInit t = .next t ∧ readReg t .icsSum = 0x00000000#32 ∧ readReg t .icsResult = 0x0000FFFF#32) ∧
  ∀ p : Params, exec .icsInit (State.resetWith p) = .next (State.resetWith p)

/-- 40_internet_checksum.md R124: `ICS.ADDB` absorbs its byte by R121, as the high byte of a word when `ODD` is 0 and as the
low byte when it is 1, toggles `ODD`, and changes nothing else. -/
def Obligations.IcsAddbAbsorbsByte : Prop :=
  ∀ (s : State) (b : Byte), encode (.icsAddb b) = 0x12000000#32 ||| b.setWidth 32 ∧
    exec (.icsAddb b) s = .next
      (if s.odd then { s with sum := add1c s.sum (s.hold ++ b), hold := 0#8, odd := false }
       else { s with hold := b, odd := true })

/-- 40_internet_checksum.md R123: `ICS.ADD` absorbs the bytes of the range in order; `ODD` ends as `ODD xor ARG_CNT[0]`; an
empty range changes nothing; a range that does not lie in `BUF` raises `E_BOUNDS` and changes nothing else. -/
def Obligations.IcsAddAbsorbsRange : Prop :=
  encode .icsAdd = 0x11000000#32 ∧
  ∀ s : State,
    (s.argPtr.toNat + s.argCnt.toNat ≤ s.params.bufSize →
      ∃ t, exec .icsAdd s = .next t ∧
        (∃ u, u = icsAbsorbAll s.ics (memRead s s.argPtr.toNat s.argCnt.toNat) ∧
          t = { s with sum := u.sum, hold := u.hold, odd := u.odd }) ∧
        t.odd = xor s.odd (s.argCnt.getLsbD 0) ∧ (s.argCnt = 0#32 → t = s)) ∧
    (s.params.bufSize < s.argPtr.toNat + s.argCnt.toNat → s.fault = false →
      exec .icsAdd s = .next (faulted s 0x03#8 s.argPtr 0x11000000#32))

/-- 40_internet_checksum.md R125, R126: the bytes of the two pseudo-headers, 12 and 40 of them, most significant byte of
each register first. -/
def Obligations.PseudoHeaderBytes : Prop :=
  ∀ s : State,
    ph4 s = [s.phSrc0.extractLsb' 24 8, s.phSrc0.extractLsb' 16 8, s.phSrc0.extractLsb' 8 8, s.phSrc0.extractLsb' 0 8,
      s.phDst0.extractLsb' 24 8, s.phDst0.extractLsb' 16 8, s.phDst0.extractLsb' 8 8, s.phDst0.extractLsb' 0 8,
      0x00#8, s.phProto, s.phLen.extractLsb' 8 8, s.phLen.extractLsb' 0 8] ∧
    (ph4 s).length = 12 ∧
    ph6 s = be32 s.phSrc0 ++ be32 s.phSrc1 ++ be32 s.phSrc2 ++ be32 s.phSrc3 ++
      be32 s.phDst0 ++ be32 s.phDst1 ++ be32 s.phDst2 ++ be32 s.phDst3 ++ be32 s.phLen ++
      [0x00#8, 0x00#8, 0x00#8, s.phProto] ∧
    (ph6 s).length = 40 ∧
    ∀ v : Word, be32 v = [v.extractLsb' 24 8, v.extractLsb' 16 8, v.extractLsb' 8 8, v.extractLsb' 0 8]

/-- 40_internet_checksum.md R127: `ICS.PH` absorbs the pseudo-header that `PH_CTL` selects, or raises the first of its three
faults, in the order of the tests; nothing else changes, and `ODD` not at all. -/
def Obligations.IcsPhAbsorbsPseudoHeader : Prop :=
  encode .icsPh = 0x13000000#32 ∧
  ∀ s : State,
    ((s.phCtl = 0x5#4 ∧ s.phLen.toNat ≤ 0xFFFF ∨ s.phCtl = 0xF#4) →
      ∃ t u, exec .icsPh s = .next t ∧ u = icsAbsorbAll s.ics (if s.phCtl = 0x5#4 then ph4 s else ph6 s) ∧
        t = { s with sum := u.sum, hold := u.hold, odd := u.odd } ∧ t.odd = s.odd) ∧
    (s.fault = false →
      exec .icsPh s =
        if s.phCtl.getLsbD 0 = false ∨ s.phCtl.getLsbD 2 = false then .next (faulted s 0x10#8 0#32 0x13000000#32)
        else if s.phCtl.getLsbD 1 ≠ s.phCtl.getLsbD 3 then .next (faulted s 0x11#8 0#32 0x13000000#32)
        else if s.phCtl.getLsbD 1 = false ∧ 0xFFFF < s.phLen.toNat then .next (faulted s 0x12#8 0#32 0x13000000#32)
        else .next (s.withIcs (icsAbsorbAll s.ics (if s.phCtl.getLsbD 1 then ph6 s else ph4 s))))

/-- 40_internet_checksum.md R129: `ICS.PUT` stores the result, most significant byte first, at `ARG_PTR` and changes nothing
else; when the two bytes do not lie in `BUF` it raises `E_BOUNDS` and stores nothing. -/
def Obligations.IcsPutStoresResult : Prop :=
  encode .icsPut = 0x15000000#32 ∧
  ∀ s : State,
    (s.argPtr.toNat + 2 ≤ s.params.bufSize →
      ∃ t, exec .icsPut s = .next t ∧ t = { s with buf := t.buf } ∧
        bufRead t s.argPtr.toNat = (readReg s .icsResult).extractLsb' 8 8 ∧
        bufRead t (s.argPtr.toNat + 1) = (readReg s .icsResult).extractLsb' 0 8 ∧
        ∀ a, a ≠ s.argPtr.toNat → a ≠ s.argPtr.toNat + 1 → bufRead t a = bufRead s a) ∧
    (s.params.bufSize < s.argPtr.toNat + 2 → s.fault = false →
      exec .icsPut s = .next (faulted s 0x03#8 s.argPtr 0x15000000#32))

/-- 40_internet_checksum.md R128: the unit's registers, and the view `ICS_RESULT`, after a stream absorbed from the start. -/
def Obligations.IcsUnitComputesInetChecksum : Prop :=
  ∀ bs : List Byte,
    (icsAbsorbAll icsStart bs).odd = decide (bs.length % 2 = 1) ∧
    (icsAbsorbAll icsStart bs).sum = onesSum (icsWords (bs.take (bs.length - bs.length % 2))) ∧
    (icsAbsorbAll icsStart bs).hold = (if bs.length % 2 = 1 then bs.getLastD 0#8 else 0#8) ∧
    icsResult (icsAbsorbAll icsStart bs) = inetChecksum bs

/-- 40_internet_checksum.md R135: the closed form of the folded sum, and that words may be added in any order and in any
grouping. -/
def Obligations.OnesSumClosedForm : Prop :=
  (∀ ws : List Half, (onesSum ws).toNat = if wordTotal ws = 0 then 0 else (wordTotal ws - 1) % 65535 + 1) ∧
  (∀ ws : List Half, onesSum ws = 0#16 ↔ ∀ w ∈ ws, w = 0#16) ∧
  (∀ ws vs : List Half, ws.Perm vs → onesSum ws = onesSum vs) ∧
  (∀ ws vs : List Half, onesSum (ws ++ vs) = add1c (onesSum ws) (onesSum vs))

/-- 40_internet_checksum.md R131: a wide accumulator folded until it fits 16 bits gives the same sum, and the folding
ends. -/
def Obligations.WideAccumulatorAgrees : Prop :=
  ∀ ws : List Half,
    (∃ n, foldCarry^[n] (wordTotal ws) < 0x10000) ∧
    ∀ n, foldCarry^[n] (wordTotal ws) < 0x10000 → foldCarry^[n] (wordTotal ws) = (onesSum ws).toNat

/-- 40_internet_checksum.md R132: self-verification. A stream whose two checksum bytes, at an even position, are replaced by
the checksum of the stream with them zero verifies; and conversely, but that a field of 0 and one of 0xFFFF cannot be told
apart. -/
def Obligations.InetChecksumSelfVerifies : Prop :=
  ∀ (bs : List Byte) (j : Nat), 2 * j + 1 < bs.length →
    ∀ z, z = (bs.set (2 * j) 0#8).set (2 * j + 1) 0#8 →
      (∀ bs', bs' = (bs.set (2 * j) ((inetChecksum z).extractLsb' 8 8)).set (2 * j + 1) ((inetChecksum z).extractLsb' 0 8) →
        inetChecksum bs' = 0x0000#16 ∧ icsResult (icsAbsorbAll icsStart bs') = 0x0000#16) ∧
      (inetChecksum bs = 0x0000#16 →
        bs.getD (2 * j) 0#8 ++ bs.getD (2 * j + 1) 0#8 = inetChecksum z ∨
        (bs.getD (2 * j) 0#8 ++ bs.getD (2 * j + 1) 0#8 = 0xFFFF#16 ∧ inetChecksum z = 0x0000#16))

/-- 40_internet_checksum.md R134: pieces of even length may be absorbed in any order with the same `SUM`. -/
def Obligations.EvenPiecesCommute : Prop :=
  ∀ ps qs : List (List Byte), (∀ p ∈ ps, p.length % 2 = 0) → ps.Perm qs →
    icsAbsorbAll icsStart ps.flatten = icsAbsorbAll icsStart qs.flatten

/-! ### CRC and ADL -/

/-- 41_crc32c.md R154: `CRC.INIT` loads `CRC_INIT` and changes nothing else; twice is the same as once; after reset it
changes nothing. -/
def Obligations.CrcInitStartsStream : Prop :=
  encode .crcInit = 0x20000000#32 ∧
  (∀ s : State, ∃ t, exec .crcInit s = .next t ∧ t = { s with crc := s.params.crcInit } ∧ exec .crcInit t = .next t ∧
    readReg t .crcState = s.params.crcInit ∧ readReg t .crcResult = s.params.crcInit ^^^ s.params.crcXorout) ∧
  ∀ p : Params, exec .crcInit (State.resetWith p) = .next (State.resetWith p)

/-- 41_crc32c.md R153, R156: `CRC.ADDB` updates `CRC` by the table, and changes nothing else; a sequence of bytes is absorbed
one after the other. -/
def Obligations.CrcAddbAbsorbsByte : Prop :=
  (∀ (s : State) (b : Byte), encode (.crcAddb b) = 0x22000000#32 ||| b.setWidth 32 ∧
    exec (.crcAddb b) s =
      .next { s with crc := crcTable ((s.crc ^^^ b.setWidth 32).extractLsb' 0 8) ^^^ (s.crc >>> 8) }) ∧
  (∀ crc : Word, crcAbsorbAll crc [] = crc) ∧
  ∀ (crc : Word) (b : Byte) (bs : List Byte), crcAbsorbAll crc (b :: bs) =
    crcAbsorbAll (crcTable ((crc ^^^ b.setWidth 32).extractLsb' 0 8) ^^^ (crc >>> 8)) bs

/-- 41_crc32c.md R155: `CRC.ADD` absorbs the bytes of the range in order; a range that does not lie in `BUF` raises
`E_BOUNDS` and changes nothing else. -/
def Obligations.CrcAddAbsorbsRange : Prop :=
  encode .crcAdd = 0x21000000#32 ∧
  ∀ s : State,
    (s.argPtr.toNat + s.argCnt.toNat ≤ s.params.bufSize →
      exec .crcAdd s = .next { s with crc := crcAbsorbAll s.crc (memRead s s.argPtr.toNat s.argCnt.toNat) }) ∧
    (s.argCnt = 0#32 → s.argPtr.toNat ≤ s.params.bufSize → exec .crcAdd s = .next s) ∧
    (s.params.bufSize < s.argPtr.toNat + s.argCnt.toNat → s.fault = false →
      exec .crcAdd s = .next (faulted s 0x03#8 s.argPtr 0x21000000#32))

/-- 41_crc32c.md R158: the table form equals eight steps of the bit-serial form. -/
def Obligations.CrcTableEqualsBitSerial : Prop :=
  ∀ (crc : Word) (b : Byte), crcAbsorb crc b = crcShifts 8 (crc ^^^ b.setWidth 32)

/-- 41_crc32c.md R160: the residue. Feeding a stream and then its own CRC-32C, least significant byte first, leaves a
constant: `0xB798B438` with both parameters `0xFFFFFFFF`, and zero with both 0. -/
def Obligations.CrcResidueIsConstant : Prop :=
  ∀ bs : List Byte,
    (∀ c, c = crc32c 0xFFFFFFFF#32 0xFFFFFFFF#32 bs →
      crcAbsorbAll 0xFFFFFFFF#32 (bs ++ (be32 c).reverse) = 0xB798B438#32 ∧
      crc32c 0xFFFFFFFF#32 0xFFFFFFFF#32 (bs ++ (be32 c).reverse) = 0x48674BC7#32) ∧
    (∀ c, c = crc32c 0#32 0#32 bs → crc32c 0#32 0#32 (bs ++ (be32 c).reverse) = 0#32)

/-- 42_adler32.md R172: `ADL.INIT` sets `A` to 1 and `B` to 0 and changes nothing else; twice is the same as once; after
reset it changes nothing. -/
def Obligations.AdlInitStartsStream : Prop :=
  encode .adlInit = 0x30000000#32 ∧
  (∀ s : State, ∃ t, exec .adlInit s = .next t ∧ t = { s with adlA := 1#16, adlB := 0#16 } ∧ exec .adlInit t = .next t ∧
    readReg t .adlSum = 0x00000001#32) ∧
  ∀ p : Params, exec .adlInit (State.resetWith p) = .next (State.resetWith p)

/-- 42_adler32.md R171, R174: `ADL.ADDB` updates `A`, then `B` with the new `A`, each modulo 65521, and changes nothing
else. -/
def Obligations.AdlAddbAbsorbsByte : Prop :=
  ∀ (s : State) (b : Byte), encode (.adlAddb b) = 0x32000000#32 ||| b.setWidth 32 ∧ ∃ t, exec (.adlAddb b) s = .next t ∧ t = { s with adlA := t.adlA, adlB := t.adlB } ∧
    t.adlA.toNat = (s.adlA.toNat + b.toNat) % 65521 ∧ t.adlB.toNat = (s.adlB.toNat + t.adlA.toNat) % 65521

/-- 42_adler32.md R173: `ADL.ADD` absorbs the bytes of the range in order; a range that does not lie in `BUF` raises
`E_BOUNDS` and changes nothing else. -/
def Obligations.AdlAddAbsorbsRange : Prop :=
  encode .adlAdd = 0x31000000#32 ∧
  ∀ s : State,
    (s.argPtr.toNat + s.argCnt.toNat ≤ s.params.bufSize →
      ∃ u, u = adlAbsorbAll s.adl (memRead s s.argPtr.toNat s.argCnt.toNat) ∧
        exec .adlAdd s = .next { s with adlA := u.a, adlB := u.b }) ∧
    (s.argCnt = 0#32 → s.argPtr.toNat ≤ s.params.bufSize → exec .adlAdd s = .next s) ∧
    (s.params.bufSize < s.argPtr.toNat + s.argCnt.toNat → s.fault = false →
      exec .adlAdd s = .next (faulted s 0x03#8 s.argPtr 0x31000000#32))

/-- 42_adler32.md R170: the two sums after a stream, in closed form. -/
def Obligations.AdlerClosedForm : Prop :=
  ∀ bs : List Byte,
    (adlAbsorbAll adlStart bs).a.toNat = (1 + (bs.map BitVec.toNat).sum) % 65521 ∧
    (adlAbsorbAll adlStart bs).b.toNat =
      (((List.range bs.length).map fun k => (adlAbsorbAll adlStart (bs.take (k + 1))).a.toNat).sum) % 65521 ∧
    adler32 bs = (adlAbsorbAll adlStart bs).b ++ (adlAbsorbAll adlStart bs).a

/-- 40_internet_checksum.md R130, 41_crc32c.md R159, 42_adler32.md R176: a range of `n + m` bytes fed by one `ADD` command
leaves its unit as the first `n` bytes fed by one `ADD` and then the `m` after them by another. -/
def Obligations.SplitRangesAgree : Prop :=
  ∀ (s t u v : State) (n m : Nat), s.argPtr.toNat + n + m ≤ s.params.bufSize → s.params.wf = true →
    ∀ i ∈ [Instr.icsAdd, Instr.crcAdd, Instr.adlAdd],
      exec i { s with argCnt := BitVec.ofNat 32 (n + m) } = .next t →
      exec i { s with argCnt := BitVec.ofNat 32 n } = .next u →
      exec i { u with argPtr := s.argPtr + BitVec.ofNat 32 n, argCnt := BitVec.ofNat 32 m } = .next v →
      t = { v with argPtr := s.argPtr, argCnt := BitVec.ofNat 32 (n + m) }

/-- 10_state.md R28 to R49, 41_crc32c.md R159, 42_adler32.md R176: which commands can change which state. No command but the
reset changes an operand register of the host; each unit's running value, the registries, `NAME` and `BUF` change only under
the commands that the rules name. -/
def Obligations.UnitsAreIndependent : Prop :=
  ∀ (i : Instr) (s t : State), exec i s = .next t → i ≠ .sysReset →
    (t.argPtr = s.argPtr ∧ t.argCnt = s.argCnt ∧ t.phCtl = s.phCtl ∧ t.phProto = s.phProto ∧ t.phLen = s.phLen ∧
      t.phSrc0 = s.phSrc0 ∧ t.phSrc1 = s.phSrc1 ∧ t.phSrc2 = s.phSrc2 ∧ t.phSrc3 = s.phSrc3 ∧
      t.phDst0 = s.phDst0 ∧ t.phDst1 = s.phDst1 ∧ t.phDst2 = s.phDst2 ∧ t.phDst3 = s.phDst3 ∧
      t.dnsBase = s.dnsBase ∧ t.dnsLen = s.dnsLen ∧ t.params = s.params ∧ t.epoch = s.epoch) ∧
    (changesIcs i = false → t.sum = s.sum ∧ t.hold = s.hold ∧ t.odd = s.odd) ∧
    (changesCrc i = false → t.crc = s.crc) ∧
    (changesAdl i = false → t.adlA = s.adlA ∧ t.adlB = s.adlB) ∧
    (i ≠ .dnsDec → t.name = s.name ∧ t.nameLen = s.nameLen) ∧
    (i ≠ .dnsDec → (∀ nc, i ≠ .dnsEnc nc) → t.dnsPos = s.dnsPos) ∧
    (i ≠ .dnsDec → i ≠ .dnsClr → t.dreg = s.dreg) ∧
    (i ≠ .dnsEnc false → i ≠ .dnsClr → t.ereg = s.ereg) ∧
    (writesBuf i = false → t.buf = s.buf)

/-! ### DNS -/

/-- 43_dns_name.md R196: `DNS.CLR` empties both registries and changes nothing else; twice is the same as once;
after reset it changes nothing. -/
def Obligations.DnsClrEmptiesRegistries : Prop :=
  encode .dnsClr = 0x40000000#32 ∧
  (∀ p : Params, exec .dnsClr (State.resetWith p) = .next (State.resetWith p)) ∧
  ∀ s : State, ∃ t, exec .dnsClr s = .next t ∧ t = { s with dreg := [], ereg := [] } ∧ exec .dnsClr t = .next t ∧
    readReg t .dnsDcount = 0#32 ∧ readReg t .dnsEcount = 0#32

/-- 43_dns_name.md R195, 10_state.md R47, R48: on either registry, in the canonical form that the model holds it in (log 13),
`RegPut` binds the key, leaves every other key alone, keeps the form and counts a new entry; it refuses exactly a new key in a
full registry. -/
def Obligations.RegistryInsertion : Prop :=
  (∀ (cap : Option Nat) (m : List (Word × List Byte)) (k : Word) (v : List Byte), mapSorted wordLt m →
    insertionLaw cap wordLt m k v) ∧
  (∀ (cap : Option Nat) (m : List (List Byte × Word)) (k : List Byte) (v : Word), mapSorted nameLt m →
    insertionLaw cap nameLt m k v)

/-- 43_dns_name.md R197, corner cases: a lone terminator decodes to the root name and registers nothing; a lone pointer to a
registered name decodes to that name and registers nothing. -/
def Obligations.DecodeLoneItem : Prop :=
  ∀ s : State, s.params.wf = true → windowFits s →
    (s.dnsPos.toNat < s.dnsLen.toNat → messageByte s s.dnsPos.toNat = 0x00#8 →
      exec .dnsDec s = .next { s with dnsPos := s.dnsPos + 1#32, nameLen := 0#32 }) ∧
    (∀ (off : Word) (nm : List Byte), s.dnsPos.toNat + 1 < s.dnsLen.toNat → off.toNat ≤ 0x3FFF →
      messageByte s s.dnsPos.toNat = 0xC0#8 ||| (off.extractLsb' 8 6).setWidth 8 →
      messageByte s (s.dnsPos.toNat + 1) = off.extractLsb' 0 8 →
      mapGet off s.dreg = some nm → nm.length ≤ s.params.nameMax →
      ∃ t, exec .dnsDec s = .next t ∧
        t = { s with dnsPos := s.dnsPos + 2#32, nameLen := BitVec.ofNat 32 nm.length, name := t.name } ∧
        currentName t = nm ∧ ∀ i, nm.length ≤ i → nameRead t i = nameRead s i)

/-- 43_dns_name.md R191, R197: `DNS.DEC` on a name of any number of labels that ends in a terminator or in a pointer to a
registered name. `NAME` holds the labels and the registered name joined by dots; `DNS_POS` stands after the name's last item;
for every label the suffix that begins there is registered under the position of its length byte, nothing else is, and only
the positions that are new need room; nothing but these, the bytes of `NAME` below `NAME_LEN` and `NAME_LEN` changes. -/
def Obligations.DecodeReadsName : Prop :=
  ∀ (s : State) (ls : List (List Byte)) (e : NameEnd) (tail : List Byte), Inv s → windowFits s →
    (∀ l ∈ ls, 1 ≤ l.length ∧ l.length ≤ 191) →
    (match e with
      | .terminator => tail = []
      | .pointer off => off.toNat ≤ 0x3FFF ∧ mapGet off s.dreg = some tail) →
    messageHolds s (wireName ls e) → s.dnsPos.toNat + (wireName ls e).length ≤ s.dnsLen.toNat →
    (nameText ls tail).length ≤ s.params.nameMax → roomFor s s.dreg.length (newKeys s (suffixesAt s.dnsPos.toNat tail ls)) →
    ∃ t, exec .dnsDec s = .next t ∧
      t = { s with
            dnsPos := BitVec.ofNat 32 (s.dnsPos.toNat + (wireName ls e).length),
            nameLen := BitVec.ofNat 32 (nameText ls tail).length, name := t.name, dreg := t.dreg } ∧
      currentName t = nameText ls tail ∧
      (∀ i, (nameText ls tail).length ≤ i → nameRead t i = nameRead s i) ∧
      ∀ off, mapGet off t.dreg = (suffixAt off (suffixesAt s.dnsPos.toNat tail ls)).or (mapGet off s.dreg)

/-- 43_dns_name.md R193, R194, R197, 20_memory.md R67: where `DNS.DEC` faults on its first item: a window outside `BUF`, no
byte at `DNS_POS`, a label that does not lie below `DNS_LEN`, a label longer than `NAME_MAX`, of which `NAME` holds what fits, a
pointer without its second byte, a pointer to an unregistered offset. -/
def Obligations.DecodeFaultsAtOnce : Prop :=
  ∀ s : State, s.params.wf = true → s.fault = false →
    (¬ windowFits s → exec .dnsDec s = .next (faulted s 0x03#8 s.dnsBase 0x41000000#32)) ∧
    (windowFits s → s.dnsLen.toNat ≤ s.dnsPos.toNat →
      exec .dnsDec s = .next (faulted { s with nameLen := 0#32 } 0x20#8 s.dnsPos 0x41000000#32)) ∧
    (windowFits s → s.dnsPos.toNat < s.dnsLen.toNat →
      (∀ n : Byte, messageByte s s.dnsPos.toNat = n → 1 ≤ n.toNat → n.toNat ≤ 0xBF →
        s.dnsLen.toNat < s.dnsPos.toNat + 1 + n.toNat →
        exec .dnsDec s = .next
          (faulted { s with nameLen := 0#32, dnsPos := s.dnsPos + 1#32 } 0x20#8 (s.dnsPos + 1#32) 0x41000000#32)) ∧
      (∀ n : Byte, messageByte s s.dnsPos.toNat = n → s.params.nameMax < n.toNat → n.toNat ≤ 0xBF →
        s.dnsPos.toNat + 1 + n.toNat ≤ s.dnsLen.toNat →
        ∃ t, exec .dnsDec s = .next t ∧
          t = faulted
            { s with
              nameLen := BitVec.ofNat 32 s.params.nameMax,
              dnsPos := BitVec.ofNat 32 (s.dnsPos.toNat + s.params.nameMax + 2), name := t.name }
            0x22#8 (BitVec.ofNat 32 (s.dnsPos.toNat + s.params.nameMax + 2)) 0x41000000#32 ∧
          (∀ i < s.params.nameMax, nameRead t i = messageByte s (s.dnsPos.toNat + 1 + i)) ∧
          ∀ i, s.params.nameMax ≤ i → nameRead t i = nameRead s i) ∧
      (0xC0 ≤ (messageByte s s.dnsPos.toNat).toNat → s.dnsLen.toNat = s.dnsPos.toNat + 1 →
        exec .dnsDec s = .next
          (faulted { s with nameLen := 0#32, dnsPos := s.dnsPos + 1#32 } 0x20#8 (s.dnsPos + 1#32) 0x41000000#32)) ∧
      (0xC0 ≤ (messageByte s s.dnsPos.toNat).toNat → s.dnsPos.toNat + 1 < s.dnsLen.toNat →
        mapGet (pointerOffset (messageByte s s.dnsPos.toNat) (messageByte s (s.dnsPos.toNat + 1))) s.dreg = none →
        exec .dnsDec s = .next
          (faulted { s with nameLen := 0#32, dnsPos := s.dnsPos + 2#32 } 0x21#8 (s.dnsPos + 2#32) 0x41000000#32)))

/-- 43_dns_name.md R195, R197, 60_exceptions.md R244: where `DNS.DEC` raises `E_DNS_REG_FULL`, on a name of any number of labels
and either end. The suffixes are registered last label first; the one at index `k` is new and those after it fill the
registry. The name stands whole in `NAME`, `DNS_POS` after its last item, and the entries put before the fault stay. -/
def Obligations.DecodeStopsWhenRegistryFull : Prop :=
  ∀ (s : State) (ls : List (List Byte)) (e : NameEnd) (tail : List Byte) (sfx : List (Nat × List Byte)) (k : Nat)
    (entry : Nat × List Byte),
    Inv s → s.fault = false → windowFits s → (∀ l ∈ ls, 1 ≤ l.length ∧ l.length ≤ 191) →
    (match e with
      | .terminator => tail = []
      | .pointer off => off.toNat ≤ 0x3FFF ∧ mapGet off s.dreg = some tail) →
    messageHolds s (wireName ls e) → s.dnsPos.toNat + (wireName ls e).length ≤ s.dnsLen.toNat →
    (nameText ls tail).length ≤ s.params.nameMax →
    sfx = suffixesAt s.dnsPos.toNat tail ls → sfx[k]? = some entry → mapGet (BitVec.ofNat 32 entry.1) s.dreg = none →
    s.params.regCap = some (s.dreg.length + newKeys s (sfx.drop (k + 1))) →
    ∃ t, exec .dnsDec s = .next t ∧
      t = faulted
        { s with
          dnsPos := BitVec.ofNat 32 (s.dnsPos.toNat + (wireName ls e).length),
          nameLen := BitVec.ofNat 32 (nameText ls tail).length, name := t.name, dreg := t.dreg }
        0x23#8 (BitVec.ofNat 32 (s.dnsPos.toNat + (wireName ls e).length)) 0x41000000#32 ∧
      currentName t = nameText ls tail ∧
      (∀ i, (nameText ls tail).length ≤ i → nameRead t i = nameRead s i) ∧
      ∀ off, mapGet off t.dreg = (suffixAt off (sfx.drop (k + 1))).or (mapGet off s.dreg)

/-- 43_dns_name.md R192: a pointer's two bytes begin with two ones and hold the 14-bit offset, high 6 bits first; what the
encoder writes the decoder reads. -/
def Obligations.PointerBytesRoundTrip : Prop :=
  (∀ off : Word, off.toNat ≤ 0x3FFF →
    ∃ p0 p1, pointerBytes off = [p0, p1] ∧ isPointerByte p0 = true ∧ p0.toNat = 0xC0 + off.toNat / 256 ∧
      p1.toNat = off.toNat % 256 ∧ pointerOffset p0 p1 = off) ∧
  (∀ p0 : Byte, isPointerByte p0 = true ↔ 0xC0 ≤ p0.toNat) ∧
  (∀ p0 p1 : Byte, (pointerOffset p0 p1).toNat = p0.toNat % 64 * 256 + p1.toNat)

/-- 43_dns_name.md R201, corner cases, and R206: the root name is the single byte 0; a name found whole in `EREG` is a
pointer of two bytes and nothing is registered. -/
def Obligations.EncodeRootAndKnownName : Prop :=
  ∀ (s : State), s.params.wf = true → windowFits s →
    (∀ nc, s.nameLen = 0#32 → s.dnsPos.toNat < s.dnsLen.toNat →
      ∃ t, exec (.dnsEnc nc) s = .next t ∧ t = { s with dnsPos := s.dnsPos + 1#32, buf := t.buf } ∧
        bufRead t (s.dnsBase.toNat + s.dnsPos.toNat) = 0x00#8 ∧
        ∀ a, a ≠ s.dnsBase.toNat + s.dnsPos.toNat → bufRead t a = bufRead s a) ∧
    (∀ off : Word, 0 < s.nameLen.toNat → s.nameLen.toNat ≤ s.params.nameMax → mapGet (currentName s) s.ereg = some off →
      off.toNat ≤ 0x3FFF → s.dnsPos.toNat + 1 < s.dnsLen.toNat →
      ∃ t, exec (.dnsEnc false) s = .next t ∧ t = { s with dnsPos := s.dnsPos + 2#32, buf := t.buf } ∧
        bufRead t (s.dnsBase.toNat + s.dnsPos.toNat) = 0xC0#8 ||| (off.extractLsb' 8 6).setWidth 8 ∧
        bufRead t (s.dnsBase.toNat + s.dnsPos.toNat + 1) = off.extractLsb' 0 8 ∧
        ∀ a, a ≠ s.dnsBase.toNat + s.dnsPos.toNat → a ≠ s.dnsBase.toNat + s.dnsPos.toNat + 1 → bufRead t a = bufRead s a)

/-- 43_dns_name.md R201: `DNS.ENC` on a name whose leading labels `ls` are not registered as suffixes and whose rest, if
any, is registered at an offset that a pointer can hold. The labels are written in order, then the terminator or the pointer;
with `NC` = 0 each new suffix is registered at its position; nothing else changes. -/
def Obligations.EncodeWritesName : Prop :=
  ∀ (s : State) (nc : Bool) (ls : List (List Byte)) (e : NameEnd) (tail : List Byte), Inv s → windowFits s →
    ls ≠ [] → (∀ l ∈ ls, encodableLabel l) → currentName s = nameText ls tail → s.nameLen.toNat ≤ s.params.nameMax →
    (match e with
      | .terminator => tail = []
      | .pointer off => nc = false ∧ tail ≠ [] ∧ off.toNat ≤ 0x3FFF ∧ mapGet tail s.ereg = some off) →
    (nc = false → (∀ p ∈ suffixesAt s.dnsPos.toNat tail ls, mapGet p.2 s.ereg = none) ∧
      roomFor s s.ereg.length ls.length) →
    s.dnsPos.toNat + (wireName ls e).length ≤ s.dnsLen.toNat →
    ∃ t, exec (.dnsEnc nc) s = .next t ∧
      t = { s with dnsPos := BitVec.ofNat 32 (s.dnsPos.toNat + (wireName ls e).length), buf := t.buf, ereg := t.ereg } ∧
      messageHolds { t with dnsPos := s.dnsPos } (wireName ls e) ∧
      (∀ a, a < s.dnsBase.toNat + s.dnsPos.toNat ∨
          s.dnsBase.toNat + s.dnsPos.toNat + (wireName ls e).length ≤ a → bufRead t a = bufRead s a) ∧
      ∀ nm, mapGet nm t.ereg =
        if nc then mapGet nm s.ereg else (positionOf nm (suffixesAt s.dnsPos.toNat tail ls)).or (mapGet nm s.ereg)

/-- 43_dns_name.md R193, R195, R201, 20_memory.md R67: where `DNS.ENC` faults before it writes a byte: a window outside `BUF`, a
`NAME_LEN` above `NAME_MAX`, no room for the root name's byte; a name registered whole above 0x3FFF, or below it with no room
for the pointer; a new name and a full registry; a first label that is empty, too long, or good with no room for its length
byte. With `NC` = 0 a new name is registered before its first label is tested or written, and the entry stays. -/
def Obligations.EncodeFaultsAtOnce : Prop :=
  ∀ s : State, s.params.wf = true → s.fault = false →
    (∀ nc : Bool,
      (¬ windowFits s → exec (.dnsEnc nc) s = .next (faulted s 0x03#8 s.dnsBase (encode (.dnsEnc nc)))) ∧
      (windowFits s → s.params.nameMax < s.nameLen.toNat →
        exec (.dnsEnc nc) s = .next (faulted s 0x22#8 s.dnsPos (encode (.dnsEnc nc)))) ∧
      (windowFits s → s.nameLen = 0#32 → s.dnsLen.toNat ≤ s.dnsPos.toNat →
        exec (.dnsEnc nc) s = .next (faulted s 0x26#8 s.dnsPos (encode (.dnsEnc nc))))) ∧
    (nameGiven s → ∀ off, mapGet (currentName s) s.ereg = some off →
      (0x3FFF < off.toNat → exec (.dnsEnc false) s = .next (faulted s 0x27#8 s.dnsPos 0x42000000#32)) ∧
      (off.toNat ≤ 0x3FFF → s.dnsLen.toNat ≤ s.dnsPos.toNat →
        exec (.dnsEnc false) s = .next (faulted s 0x26#8 s.dnsPos 0x42000000#32))) ∧
    (nameGiven s → mapGet (currentName s) s.ereg = none → s.params.regCap = some s.ereg.length →
      exec (.dnsEnc false) s = .next (faulted s 0x23#8 s.dnsPos 0x42000000#32)) ∧
    (nameGiven s → ∀ code : Byte,
      ((code = 0x25#8 ∧ firstLabelEmpty s) ∨ (code = 0x24#8 ∧ firstLabelLong s) ∨
        (code = 0x26#8 ∧ ¬ firstLabelEmpty s ∧ ¬ firstLabelLong s ∧ s.dnsLen.toNat ≤ s.dnsPos.toNat)) →
      exec (.dnsEnc true) s = .next (faulted s code s.dnsPos 0x42000100#32) ∧
      (nameIsNew s → ∃ m, nameRegistered s m ∧
        exec (.dnsEnc false) s = .next (faulted { s with ereg := m } code s.dnsPos 0x42000000#32)))

/-- 43_dns_name.md R193, R201, 60_exceptions.md R244: where `DNS.ENC` faults part-way. First, names as in EncodeWritesName with
too little room below `DNS_LEN`: the bytes that fit are written, `E_DNS_OVERRUN` stands at `DNS_LEN`, and with `NC` = 0 the
suffixes reached are registered. Second, with `NC` = 1, good labels and after them an empty one (also a separator at the name's
end) or one of more than 63 bytes: the good labels are written and the fault stands after them. -/
def Obligations.EncodeStopsPartWay : Prop :=
  (∀ (s : State) (nc : Bool) (ls : List (List Byte)) (e : NameEnd) (tail : List Byte), Inv s → s.fault = false →
    windowFits s → ls ≠ [] → (∀ l ∈ ls, encodableLabel l) → currentName s = nameText ls tail →
    s.nameLen.toNat ≤ s.params.nameMax →
    (match e with
      | .terminator => tail = []
      | .pointer off => nc = false ∧ tail ≠ [] ∧ off.toNat ≤ 0x3FFF ∧ mapGet tail s.ereg = some off) →
    (nc = false → (∀ p ∈ suffixesAt s.dnsPos.toNat tail ls, mapGet p.2 s.ereg = none) ∧
      roomFor s s.ereg.length ls.length) →
    s.dnsPos.toNat ≤ s.dnsLen.toNat → s.dnsLen.toNat < s.dnsPos.toNat + (wireName ls e).length →
    ∃ t, exec (.dnsEnc nc) s = .next t ∧
      t = faulted { s with dnsPos := s.dnsLen, buf := t.buf, ereg := t.ereg } 0x26#8 s.dnsLen (encode (.dnsEnc nc)) ∧
      messageHolds { t with dnsPos := s.dnsPos } ((wireName ls e).take (s.dnsLen.toNat - s.dnsPos.toNat)) ∧
      (∀ a, a < s.dnsBase.toNat + s.dnsPos.toNat ∨ s.dnsBase.toNat + s.dnsLen.toNat ≤ a → bufRead t a = bufRead s a) ∧
      ∀ nm, mapGet nm t.ereg =
        if nc then mapGet nm s.ereg
        else (positionOf nm ((suffixesAt s.dnsPos.toNat tail ls).filter fun p => p.1 ≤ s.dnsLen.toNat)).or
          (mapGet nm s.ereg)) ∧
  (∀ (s : State) (ls : List (List Byte)) (bad : List Byte) (code : Byte), s.params.wf = true → s.fault = false →
    windowFits s → ls ≠ [] → (∀ l ∈ ls, encodableLabel l) → currentName s = joinLabels ls ++ dot :: bad →
    s.nameLen.toNat ≤ s.params.nameMax →
    ((code = 0x25#8 ∧ (bad = [] ∨ bad.head? = some dot)) ∨
      (code = 0x24#8 ∧ 63 < bad.length ∧ dot ∉ bad.take 64)) →
    s.dnsPos.toNat + (labelItems ls).length ≤ s.dnsLen.toNat →
    ∃ t, exec (.dnsEnc true) s = .next t ∧
      t = faulted { s with dnsPos := BitVec.ofNat 32 (s.dnsPos.toNat + (labelItems ls).length), buf := t.buf } code
        (BitVec.ofNat 32 (s.dnsPos.toNat + (labelItems ls).length)) 0x42000100#32 ∧
      messageHolds { t with dnsPos := s.dnsPos } (labelItems ls) ∧
      ∀ a, a < s.dnsBase.toNat + s.dnsPos.toNat ∨ s.dnsBase.toNat + s.dnsPos.toNat + (labelItems ls).length ≤ a →
        bufRead t a = bufRead s a)

/-- 43_dns_name.md R193, R201: the frame of `DNS.ENC`, faulting or not. The only bytes of `BUF` that can change are those
from `DNS_POS` before to `DNS_POS` after, counted from `DNS_BASE`; `DNS_POS` moves forward; with `NC` = 1 the registry is
untouched, and nothing registered is lost. -/
def Obligations.EncodeFrame : Prop :=
  ∀ (s t : State) (nc : Bool), s.params.wf = true → exec (.dnsEnc nc) s = .next t →
    s.dnsPos.toNat ≤ t.dnsPos.toNat ∧
    (∀ a, a < s.dnsBase.toNat + s.dnsPos.toNat ∨ t.dnsBase.toNat + t.dnsPos.toNat ≤ a → bufRead t a = bufRead s a) ∧
    (nc = true → t.ereg = s.ereg) ∧
    (∀ nm off, mapGet nm s.ereg = some off → mapGet nm t.ereg = some off) ∧
    t = { s with
          dnsPos := t.dnsPos, buf := t.buf, ereg := t.ereg, fault := t.fault, errCode := t.errCode, errPos := t.errPos,
          errCmd := t.errCmd }

/-- 43_dns_name.md R197: the frame of `DNS.DEC`, faulting or not. `NAME` changes below the final `NAME_LEN` only, `DNS_POS`
moves forward, `BUF` and `EREG` do not change. -/
def Obligations.DecodeFrame : Prop :=
  ∀ s t : State, s.params.wf = true → windowFits s → exec .dnsDec s = .next t →
    s.dnsPos.toNat ≤ t.dnsPos.toNat ∧ t.nameLen.toNat ≤ s.params.nameMax ∧
    (∀ i, t.nameLen.toNat ≤ i → nameRead t i = nameRead s i) ∧
    t = { s with
          dnsPos := t.dnsPos, nameLen := t.nameLen, name := t.name, dreg := t.dreg, fault := t.fault,
          errCode := t.errCode, errPos := t.errPos, errCmd := t.errCmd }

/-- 43_dns_name.md R206: a name encoded with `NC` = 0 is never longer than the same name encoded with `NC` = 1. -/
def Obligations.CompressionNeverLonger : Prop :=
  ∀ s t u : State, Inv s → s.fault = false → exec (.dnsEnc false) s = .next t → t.fault = false →
    exec (.dnsEnc true) s = .next u → u.fault = false → t.dnsPos.toNat ≤ u.dnsPos.toNat

/-- 43_dns_name.md R205, the step of its induction: from registries that mirror each other, a name that `DNS.ENC` wrote is
decoded by `DNS.DEC` from the same position to the same name, with no fault and with `DNS_POS` where the encoder left it, and
the registries mirror each other again. -/
def Obligations.EncodeDecodeRoundTrip : Prop :=
  ∀ (s t : State) (nc : Bool), Inv s → s.fault = false → mirrored s → registeredBefore s →
    roomFor s s.dreg.length (dotCount (currentName s) + 1) →
    exec (.dnsEnc nc) s = .next t → t.fault = false →
    ∃ u, exec .dnsDec { t with dnsPos := s.dnsPos } = .next u ∧ u.fault = false ∧
      u.dnsPos = t.dnsPos ∧ u.nameLen = s.nameLen ∧ currentName u = currentName s ∧ mirrored u ∧ registeredBefore u

/-! ### The invariant -/

/-- Every step keeps the invariant of Sys2Proof/Safety.lean: both memories stay in canonical form and within their sizes
(10_state.md R46, R49), the registries within their capacity with legal names (R47, R48), `HOLD` is 0 when `ODD` is 0 (R30),
`A` and `B` are below 65521 (R39), and the fault registers are legal (R25 to R27, 60_exceptions.md R241). -/
def Obligations.EveryStepKeepsInv : Prop := ∀ s t : State, Inv s → step s = .next t → Inv t

/-- The invariant holds right after reset, for every legal choice of the parameters. -/
def Obligations.InvHoldsAtReset : Prop := ∀ p : Params, p.wf = true → Inv (State.resetWith p)
end

