-- ==== Sys2Proof/Laws/Maps.lean ====
section
/-! SUPPORT. The laws of finite maps in canonical form (`mapGet`, `mapPut`, `regPut`) and of the three key orders. -/

namespace Sys2Proof.Machine

open Sys2Proof

section

variable {κ β : Type} [DecidableEq κ]

/-- What an order of keys must satisfy for the canonical form: no key before itself, transitive, total on different keys. -/
structure KeyOrder (lt : κ → κ → Bool) : Prop where
  irrefl : ∀ a, lt a a = false
  trans : ∀ a b c, lt a b = true → lt b c = true → lt a c = true
  total : ∀ a b, a ≠ b → lt a b = true ∨ lt b a = true

@[simp] theorem mapGet_nil (k : κ) : mapGet k ([] : List (κ × β)) = none := rfl

theorem mapGet_cons (k k' : κ) (v : β) (m : List (κ × β)) :
    mapGet k ((k', v) :: m) = if k = k' then some v else mapGet k m := rfl

@[simp] theorem mapGet_cons_self (k : κ) (v : β) (m : List (κ × β)) : mapGet k ((k, v) :: m) = some v := by
  simp [mapGet]

/-- A read after a write of the same key gives the value written. -/
@[simp] theorem mapGet_mapPut_same (lt : κ → κ → Bool) (k : κ) (v : β) (m : List (κ × β)) :
    mapGet k (mapPut lt k v m) = some v := by
  induction m with
  | nil => simp [mapPut]
  | cons e m ih =>
    obtain ⟨k', v'⟩ := e
    by_cases h : k = k'
    · simp [mapPut, h]
    · by_cases hl : lt k k' = true <;> simp [mapPut, h, hl, mapGet_cons, ih]

/-- A write leaves every other key alone. -/
theorem mapGet_mapPut_other (lt : κ → κ → Bool) {k j : κ} (h : j ≠ k) (v : β) (m : List (κ × β)) :
    mapGet j (mapPut lt k v m) = mapGet j m := by
  induction m with
  | nil => simp [mapPut, mapGet_cons, h]
  | cons e m ih =>
    obtain ⟨k', v'⟩ := e
    by_cases hk : k = k'
    · subst hk; simp [mapPut, mapGet_cons, h]
    · by_cases hl : lt k k' = true
      · simp [mapPut, hk, hl, mapGet_cons, h]
      · simp [mapPut, hk, hl, mapGet_cons, ih]

theorem mapGet_mapPut (lt : κ → κ → Bool) (k j : κ) (v : β) (m : List (κ × β)) :
    mapGet j (mapPut lt k v m) = if j = k then some v else mapGet j m := by
  split
  · next h => subst h; simp
  · next h => exact mapGet_mapPut_other lt h v m

/-- An entry after a write is the written one or an old one. -/
theorem mem_of_mem_mapPut {lt : κ → κ → Bool} {k : κ} {v : β} {m : List (κ × β)} {e : κ × β}
    (h : e ∈ mapPut lt k v m) : e = (k, v) ∨ e ∈ m := by
  induction m with
  | nil => left; simpa [mapPut] using h
  | cons e' m ih =>
    obtain ⟨k', v'⟩ := e'
    by_cases hk : k = k'
    · simp only [mapPut, if_pos hk, List.mem_cons] at h
      rcases h with h | h
      · exact .inl h
      · exact .inr (List.mem_cons_of_mem _ h)
    · by_cases hl : lt k k' = true
      · simp only [mapPut, if_neg hk, if_pos hl, List.mem_cons] at h
        rcases h with h | h | h
        · exact .inl h
        · exact .inr (by simp [h])
        · exact .inr (List.mem_cons_of_mem _ h)
      · simp only [mapPut, if_neg hk, if_neg hl, List.mem_cons] at h
        rcases h with h | h
        · exact .inr (by simp [h])
        · rcases ih h with h | h
          · exact .inl h
          · exact .inr (List.mem_cons_of_mem _ h)

/-- A write keeps the canonical form. -/
theorem mapPut_sorted {lt : κ → κ → Bool} (o : KeyOrder lt) {k : κ} {v : β} {m : List (κ × β)}
    (h : mapSorted lt m) : mapSorted lt (mapPut lt k v m) := by
  induction m with
  | nil => simp [mapPut, mapSorted]
  | cons e m ih =>
    obtain ⟨k', v'⟩ := e
    have hm := List.pairwise_cons.mp h
    by_cases hk : k = k'
    · subst hk
      simpa [mapPut, mapSorted] using h
    · by_cases hl : lt k k' = true
      · simp only [mapPut, if_neg hk, if_pos hl]
        refine List.pairwise_cons.mpr ⟨fun e he => ?_, h⟩
        rcases List.mem_cons.mp he with he | he
        · subst he; exact hl
        · exact o.trans _ _ _ hl (hm.1 e he)
      · simp only [mapPut, if_neg hk, if_neg hl]
        refine List.pairwise_cons.mpr ⟨fun e he => ?_, ih hm.2⟩
        rcases mem_of_mem_mapPut he with he | he
        · subst he
          exact (o.total k k' hk).resolve_left hl
        · exact hm.1 e he

/-- A write of an absent key adds one entry. -/
theorem mapPut_length_new (lt : κ → κ → Bool) {k : κ} (v : β) {m : List (κ × β)} (h : mapGet k m = none) :
    (mapPut lt k v m).length = m.length + 1 := by
  induction m with
  | nil => simp [mapPut]
  | cons e m ih =>
    obtain ⟨k', v'⟩ := e
    by_cases hk : k = k'
    · subst hk; simp at h
    · rw [mapGet_cons, if_neg hk] at h
      by_cases hl : lt k k' = true
      · simp [mapPut, hk, hl]
      · simp [mapPut, hk, hl, ih h]

/-- In canonical form an entry is what its key reads as. -/
theorem mapGet_of_mem {lt : κ → κ → Bool} (o : KeyOrder lt) {k : κ} {v : β} {m : List (κ × β)}
    (h : mapSorted lt m) (hm : (k, v) ∈ m) : mapGet k m = some v := by
  induction m with
  | nil => simp at hm
  | cons e m ih =>
    obtain ⟨k', v'⟩ := e
    have hp := List.pairwise_cons.mp h
    rcases List.mem_cons.mp hm with he | he
    · injection he with h1 h2; subst h1; subst h2; simp
    · have : k ≠ k' := by
        intro hk; subst hk
        have := hp.1 _ he
        simp [o.irrefl] at this
      rw [mapGet_cons, if_neg this]
      exact ih hp.2 he

theorem mem_of_mapGet {k : κ} {v : β} {m : List (κ × β)} (h : mapGet k m = some v) : (k, v) ∈ m := by
  induction m with
  | nil => simp at h
  | cons e m ih =>
    obtain ⟨k', v'⟩ := e
    rw [mapGet_cons] at h
    split at h
    · next hk => subst hk; injection h with h; subst h; simp
    · exact List.mem_cons_of_mem _ (ih h)

/-- In canonical form a write over a present key keeps the number of entries. -/
theorem mapPut_length_old {lt : κ → κ → Bool} (o : KeyOrder lt) {k : κ} {v : β} {m : List (κ × β)} (hs : mapSorted lt m)
    (h : (mapGet k m).isSome = true) : (mapPut lt k v m).length = m.length := by
  induction m with
  | nil => simp at h
  | cons e m ih =>
    obtain ⟨k', v'⟩ := e
    have hp := List.pairwise_cons.mp hs
    by_cases hk : k = k'
    · simp [mapPut, hk]
    · rw [mapGet_cons, if_neg hk] at h
      obtain ⟨w, hw⟩ := Option.isSome_iff_exists.mp h
      have hlt := hp.1 _ (mem_of_mapGet hw)
      have hl : ¬ lt k k' = true := by
        intro hl
        have := o.trans _ _ _ hl hlt
        simp [o.irrefl] at this
      simp [mapPut, hk, hl, ih hp.2 h]

/-- Equal reads make equal maps: two maps in canonical form that read the same under every key are the same list. -/
theorem map_ext {lt : κ → κ → Bool} (o : KeyOrder lt) {m n : List (κ × β)} (hm : mapSorted lt m) (hn : mapSorted lt n)
    (h : ∀ k, mapGet k m = mapGet k n) : m = n := by
  induction m generalizing n with
  | nil =>
    cases n with
    | nil => rfl
    | cons e n => obtain ⟨k, v⟩ := e; have := h k; simp at this
  | cons e m ih =>
    obtain ⟨k, v⟩ := e
    cases n with
    | nil => have := h k; simp at this
    | cons e' n =>
      obtain ⟨k', v'⟩ := e'
      have hpm := List.pairwise_cons.mp hm
      have hpn := List.pairwise_cons.mp hn
      have hk : k = k' := by
        by_contra hne
        have h1 := h k
        rw [mapGet_cons_self, mapGet_cons, if_neg hne] at h1
        have l1 := hpn.1 _ (mem_of_mapGet h1.symm)
        have h2 := h k'
        rw [mapGet_cons_self, mapGet_cons, if_neg (Ne.symm hne)] at h2
        have l2 := hpm.1 _ (mem_of_mapGet h2)
        have := o.trans _ _ _ l1 l2
        simp [o.irrefl] at this
      subst hk
      have hv : v = v' := by have := h k; simpa using this
      subst hv
      congr 1
      refine ih hpm.2 hpn.2 fun j => ?_
      by_cases hj : j = k
      · subst hj
        have n1 : mapGet j m = none := by
          cases hx : mapGet j m with
          | none => rfl
          | some w => have := hpm.1 _ (mem_of_mapGet hx); simp [o.irrefl] at this
        have n2 : mapGet j n = none := by
          cases hx : mapGet j n with
          | none => rfl
          | some w => have := hpn.1 _ (mem_of_mapGet hx); simp [o.irrefl] at this
        rw [n1, n2]
      · have := h j
        rwa [mapGet_cons, if_neg hj, mapGet_cons, if_neg hj] at this

/-! ### `RegPut` (43_dns_name.md R195) -/

/-- Everything `RegPut` can do: it puts the entry, because the key is present or there is room, or it refuses a new entry
in a full registry. -/
theorem regPut_cases (cap : Option Nat) (lt : κ → κ → Bool) (m : List (κ × β)) (k : κ) (v : β) :
    (regPut cap lt m k v = some (mapPut lt k v m) ∧ ((mapGet k m).isSome = true ∨ cap ≠ some m.length)) ∨
    (regPut cap lt m k v = none ∧ mapGet k m = none ∧ cap = some m.length) := by
  unfold regPut
  by_cases h : (mapGet k m).isSome = true
  · simp [h]
  · by_cases hc : cap = some m.length
    · right; simpa [hc] using h
    · left; simp [h, hc]

theorem regPut_some {cap : Option Nat} {lt : κ → κ → Bool} {m n : List (κ × β)} {k : κ} {v : β}
    (h : regPut cap lt m k v = some n) : n = mapPut lt k v m := by
  rcases regPut_cases cap lt m k v with ⟨h', _⟩ | ⟨h', _⟩ <;> rw [h'] at h <;> simp at h
  exact h.symm

end

/-! ### The orders -/

theorem natLt_order : KeyOrder natLt where
  irrefl a := by simp [natLt]
  trans a b c := by simp only [natLt, decide_eq_true_eq]; omega
  total a b := by simp only [natLt, decide_eq_true_eq]; omega

theorem wordLt_order : KeyOrder wordLt where
  irrefl a := by simp [wordLt]
  trans a b c := by simp only [wordLt, decide_eq_true_eq]; omega
  total a b h := by
    simp only [wordLt, decide_eq_true_eq]
    have : a.toNat ≠ b.toNat := fun e => h (BitVec.eq_of_toNat_eq e)
    omega

theorem nameLt_irrefl (a : List Byte) : nameLt a a = false := by
  induction a with
  | nil => rfl
  | cons x s ih => simp [nameLt, ih]

theorem nameLt_trans : ∀ a b c : List Byte, nameLt a b = true → nameLt b c = true → nameLt a c = true
  | [], [], _, h, _ => by simp [nameLt] at h
  | [], _ :: _, [], _, h => by simp [nameLt] at h
  | [], _ :: _, _ :: _, _, _ => rfl
  | _ :: _, [], _, h, _ => by simp [nameLt] at h
  | _ :: _, _ :: _, [], _, h => by simp [nameLt] at h
  | x :: s, y :: t, z :: u, h1, h2 => by
    by_cases hxy : x = y
    · subst hxy
      by_cases hxz : x = z
      · subst hxz
        simp only [nameLt, if_true] at h1 h2 ⊢
        exact nameLt_trans s t u h1 h2
      · simp only [nameLt, if_neg hxz] at h2 ⊢
        exact h2
    · by_cases hyz : y = z
      · subst hyz
        simp only [nameLt, if_neg hxy] at h1 ⊢
        exact h1
      · simp only [nameLt, if_neg hxy, if_neg hyz, decide_eq_true_eq] at h1 h2
        have hxz : x ≠ z := by rintro rfl; omega
        simp only [nameLt, if_neg hxz, decide_eq_true_eq]
        omega

theorem nameLt_total : ∀ a b : List Byte, a ≠ b → nameLt a b = true ∨ nameLt b a = true
  | [], [], h => absurd rfl h
  | [], _ :: _, _ => .inl rfl
  | _ :: _, [], _ => .inr rfl
  | x :: s, y :: t, h => by
    by_cases hxy : x = y
    · subst hxy
      simpa [nameLt] using nameLt_total s t fun e => h (by rw [e])
    · have : x.toNat ≠ y.toNat := fun e => hxy (BitVec.eq_of_toNat_eq e)
      simp only [nameLt, if_neg hxy, if_neg (Ne.symm hxy), decide_eq_true_eq]
      omega

theorem nameLt_order : KeyOrder nameLt where
  irrefl := nameLt_irrefl
  trans := nameLt_trans
  total := nameLt_total

end Sys2Proof.Machine
end

