-- ==== Sys2Proof/Laws/State.lean ====
section
/-! SUPPORT. One lemma per field per named update of the state, so that no proof unfolds a record update; and
for an update of the engine, that it leaves what stands around it, and the other way round. -/

namespace Sys2Proof.Machine

open Sys2Proof

/-! ### setIcs -/

@[simp] theorem setIcs_params (s : State) (x : Half) (y : Byte) (z : Bool) : (s.setIcs x y z).params = s.params := rfl
@[simp] theorem setIcs_fault (s : State) (x : Half) (y : Byte) (z : Bool) : (s.setIcs x y z).fault = s.fault := rfl
@[simp] theorem setIcs_errCode (s : State) (x : Half) (y : Byte) (z : Bool) : (s.setIcs x y z).errCode = s.errCode := rfl
@[simp] theorem setIcs_errPos (s : State) (x : Half) (y : Byte) (z : Bool) : (s.setIcs x y z).errPos = s.errPos := rfl
@[simp] theorem setIcs_errCmd (s : State) (x : Half) (y : Byte) (z : Bool) : (s.setIcs x y z).errCmd = s.errCmd := rfl
@[simp] theorem setIcs_argPtr (s : State) (x : Half) (y : Byte) (z : Bool) : (s.setIcs x y z).argPtr = s.argPtr := rfl
@[simp] theorem setIcs_argCnt (s : State) (x : Half) (y : Byte) (z : Bool) : (s.setIcs x y z).argCnt = s.argCnt := rfl
@[simp] theorem setIcs_sum (s : State) (x : Half) (y : Byte) (z : Bool) : (s.setIcs x y z).sum = x := rfl
@[simp] theorem setIcs_hold (s : State) (x : Half) (y : Byte) (z : Bool) : (s.setIcs x y z).hold = y := rfl
@[simp] theorem setIcs_odd (s : State) (x : Half) (y : Byte) (z : Bool) : (s.setIcs x y z).odd = z := rfl
@[simp] theorem setIcs_phCtl (s : State) (x : Half) (y : Byte) (z : Bool) : (s.setIcs x y z).phCtl = s.phCtl := rfl
@[simp] theorem setIcs_phProto (s : State) (x : Half) (y : Byte) (z : Bool) : (s.setIcs x y z).phProto = s.phProto := rfl
@[simp] theorem setIcs_phLen (s : State) (x : Half) (y : Byte) (z : Bool) : (s.setIcs x y z).phLen = s.phLen := rfl
@[simp] theorem setIcs_phSrc0 (s : State) (x : Half) (y : Byte) (z : Bool) : (s.setIcs x y z).phSrc0 = s.phSrc0 := rfl
@[simp] theorem setIcs_phSrc1 (s : State) (x : Half) (y : Byte) (z : Bool) : (s.setIcs x y z).phSrc1 = s.phSrc1 := rfl
@[simp] theorem setIcs_phSrc2 (s : State) (x : Half) (y : Byte) (z : Bool) : (s.setIcs x y z).phSrc2 = s.phSrc2 := rfl
@[simp] theorem setIcs_phSrc3 (s : State) (x : Half) (y : Byte) (z : Bool) : (s.setIcs x y z).phSrc3 = s.phSrc3 := rfl
@[simp] theorem setIcs_phDst0 (s : State) (x : Half) (y : Byte) (z : Bool) : (s.setIcs x y z).phDst0 = s.phDst0 := rfl
@[simp] theorem setIcs_phDst1 (s : State) (x : Half) (y : Byte) (z : Bool) : (s.setIcs x y z).phDst1 = s.phDst1 := rfl
@[simp] theorem setIcs_phDst2 (s : State) (x : Half) (y : Byte) (z : Bool) : (s.setIcs x y z).phDst2 = s.phDst2 := rfl
@[simp] theorem setIcs_phDst3 (s : State) (x : Half) (y : Byte) (z : Bool) : (s.setIcs x y z).phDst3 = s.phDst3 := rfl
@[simp] theorem setIcs_crc (s : State) (x : Half) (y : Byte) (z : Bool) : (s.setIcs x y z).crc = s.crc := rfl
@[simp] theorem setIcs_adlA (s : State) (x : Half) (y : Byte) (z : Bool) : (s.setIcs x y z).adlA = s.adlA := rfl
@[simp] theorem setIcs_adlB (s : State) (x : Half) (y : Byte) (z : Bool) : (s.setIcs x y z).adlB = s.adlB := rfl
@[simp] theorem setIcs_dnsBase (s : State) (x : Half) (y : Byte) (z : Bool) : (s.setIcs x y z).dnsBase = s.dnsBase := rfl
@[simp] theorem setIcs_dnsLen (s : State) (x : Half) (y : Byte) (z : Bool) : (s.setIcs x y z).dnsLen = s.dnsLen := rfl
@[simp] theorem setIcs_dnsPos (s : State) (x : Half) (y : Byte) (z : Bool) : (s.setIcs x y z).dnsPos = s.dnsPos := rfl
@[simp] theorem setIcs_nameLen (s : State) (x : Half) (y : Byte) (z : Bool) : (s.setIcs x y z).nameLen = s.nameLen := rfl
@[simp] theorem setIcs_name (s : State) (x : Half) (y : Byte) (z : Bool) : (s.setIcs x y z).name = s.name := rfl
@[simp] theorem setIcs_dreg (s : State) (x : Half) (y : Byte) (z : Bool) : (s.setIcs x y z).dreg = s.dreg := rfl
@[simp] theorem setIcs_ereg (s : State) (x : Half) (y : Byte) (z : Bool) : (s.setIcs x y z).ereg = s.ereg := rfl
@[simp] theorem setIcs_buf (s : State) (x : Half) (y : Byte) (z : Bool) : (s.setIcs x y z).buf = s.buf := rfl
@[simp] theorem setIcs_epoch (s : State) (x : Half) (y : Byte) (z : Bool) : (s.setIcs x y z).epoch = s.epoch := rfl
@[simp] theorem setIcs_port (s : State) (x : Half) (y : Byte) (z : Bool) : (s.setIcs x y z).port = s.port := rfl
@[simp] theorem setIcs_rdata (s : State) (x : Half) (y : Byte) (z : Bool) : (s.setIcs x y z).rdata = s.rdata := rfl
@[simp] theorem setIcs_toSurroundings (s : State) (x : Half) (y : Byte) (z : Bool) : (s.setIcs x y z).toSurroundings = s.toSurroundings := rfl

/-! ### setCrc -/

@[simp] theorem setCrc_params (s : State) (v : Word) : (s.setCrc v).params = s.params := rfl
@[simp] theorem setCrc_fault (s : State) (v : Word) : (s.setCrc v).fault = s.fault := rfl
@[simp] theorem setCrc_errCode (s : State) (v : Word) : (s.setCrc v).errCode = s.errCode := rfl
@[simp] theorem setCrc_errPos (s : State) (v : Word) : (s.setCrc v).errPos = s.errPos := rfl
@[simp] theorem setCrc_errCmd (s : State) (v : Word) : (s.setCrc v).errCmd = s.errCmd := rfl
@[simp] theorem setCrc_argPtr (s : State) (v : Word) : (s.setCrc v).argPtr = s.argPtr := rfl
@[simp] theorem setCrc_argCnt (s : State) (v : Word) : (s.setCrc v).argCnt = s.argCnt := rfl
@[simp] theorem setCrc_sum (s : State) (v : Word) : (s.setCrc v).sum = s.sum := rfl
@[simp] theorem setCrc_hold (s : State) (v : Word) : (s.setCrc v).hold = s.hold := rfl
@[simp] theorem setCrc_odd (s : State) (v : Word) : (s.setCrc v).odd = s.odd := rfl
@[simp] theorem setCrc_phCtl (s : State) (v : Word) : (s.setCrc v).phCtl = s.phCtl := rfl
@[simp] theorem setCrc_phProto (s : State) (v : Word) : (s.setCrc v).phProto = s.phProto := rfl
@[simp] theorem setCrc_phLen (s : State) (v : Word) : (s.setCrc v).phLen = s.phLen := rfl
@[simp] theorem setCrc_phSrc0 (s : State) (v : Word) : (s.setCrc v).phSrc0 = s.phSrc0 := rfl
@[simp] theorem setCrc_phSrc1 (s : State) (v : Word) : (s.setCrc v).phSrc1 = s.phSrc1 := rfl
@[simp] theorem setCrc_phSrc2 (s : State) (v : Word) : (s.setCrc v).phSrc2 = s.phSrc2 := rfl
@[simp] theorem setCrc_phSrc3 (s : State) (v : Word) : (s.setCrc v).phSrc3 = s.phSrc3 := rfl
@[simp] theorem setCrc_phDst0 (s : State) (v : Word) : (s.setCrc v).phDst0 = s.phDst0 := rfl
@[simp] theorem setCrc_phDst1 (s : State) (v : Word) : (s.setCrc v).phDst1 = s.phDst1 := rfl
@[simp] theorem setCrc_phDst2 (s : State) (v : Word) : (s.setCrc v).phDst2 = s.phDst2 := rfl
@[simp] theorem setCrc_phDst3 (s : State) (v : Word) : (s.setCrc v).phDst3 = s.phDst3 := rfl
@[simp] theorem setCrc_crc (s : State) (v : Word) : (s.setCrc v).crc = v := rfl
@[simp] theorem setCrc_adlA (s : State) (v : Word) : (s.setCrc v).adlA = s.adlA := rfl
@[simp] theorem setCrc_adlB (s : State) (v : Word) : (s.setCrc v).adlB = s.adlB := rfl
@[simp] theorem setCrc_dnsBase (s : State) (v : Word) : (s.setCrc v).dnsBase = s.dnsBase := rfl
@[simp] theorem setCrc_dnsLen (s : State) (v : Word) : (s.setCrc v).dnsLen = s.dnsLen := rfl
@[simp] theorem setCrc_dnsPos (s : State) (v : Word) : (s.setCrc v).dnsPos = s.dnsPos := rfl
@[simp] theorem setCrc_nameLen (s : State) (v : Word) : (s.setCrc v).nameLen = s.nameLen := rfl
@[simp] theorem setCrc_name (s : State) (v : Word) : (s.setCrc v).name = s.name := rfl
@[simp] theorem setCrc_dreg (s : State) (v : Word) : (s.setCrc v).dreg = s.dreg := rfl
@[simp] theorem setCrc_ereg (s : State) (v : Word) : (s.setCrc v).ereg = s.ereg := rfl
@[simp] theorem setCrc_buf (s : State) (v : Word) : (s.setCrc v).buf = s.buf := rfl
@[simp] theorem setCrc_epoch (s : State) (v : Word) : (s.setCrc v).epoch = s.epoch := rfl
@[simp] theorem setCrc_port (s : State) (v : Word) : (s.setCrc v).port = s.port := rfl
@[simp] theorem setCrc_rdata (s : State) (v : Word) : (s.setCrc v).rdata = s.rdata := rfl
@[simp] theorem setCrc_toSurroundings (s : State) (v : Word) : (s.setCrc v).toSurroundings = s.toSurroundings := rfl

/-! ### setAdl -/

@[simp] theorem setAdl_params (s : State) (x y : Half) : (s.setAdl x y).params = s.params := rfl
@[simp] theorem setAdl_fault (s : State) (x y : Half) : (s.setAdl x y).fault = s.fault := rfl
@[simp] theorem setAdl_errCode (s : State) (x y : Half) : (s.setAdl x y).errCode = s.errCode := rfl
@[simp] theorem setAdl_errPos (s : State) (x y : Half) : (s.setAdl x y).errPos = s.errPos := rfl
@[simp] theorem setAdl_errCmd (s : State) (x y : Half) : (s.setAdl x y).errCmd = s.errCmd := rfl
@[simp] theorem setAdl_argPtr (s : State) (x y : Half) : (s.setAdl x y).argPtr = s.argPtr := rfl
@[simp] theorem setAdl_argCnt (s : State) (x y : Half) : (s.setAdl x y).argCnt = s.argCnt := rfl
@[simp] theorem setAdl_sum (s : State) (x y : Half) : (s.setAdl x y).sum = s.sum := rfl
@[simp] theorem setAdl_hold (s : State) (x y : Half) : (s.setAdl x y).hold = s.hold := rfl
@[simp] theorem setAdl_odd (s : State) (x y : Half) : (s.setAdl x y).odd = s.odd := rfl
@[simp] theorem setAdl_phCtl (s : State) (x y : Half) : (s.setAdl x y).phCtl = s.phCtl := rfl
@[simp] theorem setAdl_phProto (s : State) (x y : Half) : (s.setAdl x y).phProto = s.phProto := rfl
@[simp] theorem setAdl_phLen (s : State) (x y : Half) : (s.setAdl x y).phLen = s.phLen := rfl
@[simp] theorem setAdl_phSrc0 (s : State) (x y : Half) : (s.setAdl x y).phSrc0 = s.phSrc0 := rfl
@[simp] theorem setAdl_phSrc1 (s : State) (x y : Half) : (s.setAdl x y).phSrc1 = s.phSrc1 := rfl
@[simp] theorem setAdl_phSrc2 (s : State) (x y : Half) : (s.setAdl x y).phSrc2 = s.phSrc2 := rfl
@[simp] theorem setAdl_phSrc3 (s : State) (x y : Half) : (s.setAdl x y).phSrc3 = s.phSrc3 := rfl
@[simp] theorem setAdl_phDst0 (s : State) (x y : Half) : (s.setAdl x y).phDst0 = s.phDst0 := rfl
@[simp] theorem setAdl_phDst1 (s : State) (x y : Half) : (s.setAdl x y).phDst1 = s.phDst1 := rfl
@[simp] theorem setAdl_phDst2 (s : State) (x y : Half) : (s.setAdl x y).phDst2 = s.phDst2 := rfl
@[simp] theorem setAdl_phDst3 (s : State) (x y : Half) : (s.setAdl x y).phDst3 = s.phDst3 := rfl
@[simp] theorem setAdl_crc (s : State) (x y : Half) : (s.setAdl x y).crc = s.crc := rfl
@[simp] theorem setAdl_adlA (s : State) (x y : Half) : (s.setAdl x y).adlA = x := rfl
@[simp] theorem setAdl_adlB (s : State) (x y : Half) : (s.setAdl x y).adlB = y := rfl
@[simp] theorem setAdl_dnsBase (s : State) (x y : Half) : (s.setAdl x y).dnsBase = s.dnsBase := rfl
@[simp] theorem setAdl_dnsLen (s : State) (x y : Half) : (s.setAdl x y).dnsLen = s.dnsLen := rfl
@[simp] theorem setAdl_dnsPos (s : State) (x y : Half) : (s.setAdl x y).dnsPos = s.dnsPos := rfl
@[simp] theorem setAdl_nameLen (s : State) (x y : Half) : (s.setAdl x y).nameLen = s.nameLen := rfl
@[simp] theorem setAdl_name (s : State) (x y : Half) : (s.setAdl x y).name = s.name := rfl
@[simp] theorem setAdl_dreg (s : State) (x y : Half) : (s.setAdl x y).dreg = s.dreg := rfl
@[simp] theorem setAdl_ereg (s : State) (x y : Half) : (s.setAdl x y).ereg = s.ereg := rfl
@[simp] theorem setAdl_buf (s : State) (x y : Half) : (s.setAdl x y).buf = s.buf := rfl
@[simp] theorem setAdl_epoch (s : State) (x y : Half) : (s.setAdl x y).epoch = s.epoch := rfl
@[simp] theorem setAdl_port (s : State) (x y : Half) : (s.setAdl x y).port = s.port := rfl
@[simp] theorem setAdl_rdata (s : State) (x y : Half) : (s.setAdl x y).rdata = s.rdata := rfl
@[simp] theorem setAdl_toSurroundings (s : State) (x y : Half) : (s.setAdl x y).toSurroundings = s.toSurroundings := rfl

/-! ### setDnsPos -/

@[simp] theorem setDnsPos_params (s : State) (v : Word) : (s.setDnsPos v).params = s.params := rfl
@[simp] theorem setDnsPos_fault (s : State) (v : Word) : (s.setDnsPos v).fault = s.fault := rfl
@[simp] theorem setDnsPos_errCode (s : State) (v : Word) : (s.setDnsPos v).errCode = s.errCode := rfl
@[simp] theorem setDnsPos_errPos (s : State) (v : Word) : (s.setDnsPos v).errPos = s.errPos := rfl
@[simp] theorem setDnsPos_errCmd (s : State) (v : Word) : (s.setDnsPos v).errCmd = s.errCmd := rfl
@[simp] theorem setDnsPos_argPtr (s : State) (v : Word) : (s.setDnsPos v).argPtr = s.argPtr := rfl
@[simp] theorem setDnsPos_argCnt (s : State) (v : Word) : (s.setDnsPos v).argCnt = s.argCnt := rfl
@[simp] theorem setDnsPos_sum (s : State) (v : Word) : (s.setDnsPos v).sum = s.sum := rfl
@[simp] theorem setDnsPos_hold (s : State) (v : Word) : (s.setDnsPos v).hold = s.hold := rfl
@[simp] theorem setDnsPos_odd (s : State) (v : Word) : (s.setDnsPos v).odd = s.odd := rfl
@[simp] theorem setDnsPos_phCtl (s : State) (v : Word) : (s.setDnsPos v).phCtl = s.phCtl := rfl
@[simp] theorem setDnsPos_phProto (s : State) (v : Word) : (s.setDnsPos v).phProto = s.phProto := rfl
@[simp] theorem setDnsPos_phLen (s : State) (v : Word) : (s.setDnsPos v).phLen = s.phLen := rfl
@[simp] theorem setDnsPos_phSrc0 (s : State) (v : Word) : (s.setDnsPos v).phSrc0 = s.phSrc0 := rfl
@[simp] theorem setDnsPos_phSrc1 (s : State) (v : Word) : (s.setDnsPos v).phSrc1 = s.phSrc1 := rfl
@[simp] theorem setDnsPos_phSrc2 (s : State) (v : Word) : (s.setDnsPos v).phSrc2 = s.phSrc2 := rfl
@[simp] theorem setDnsPos_phSrc3 (s : State) (v : Word) : (s.setDnsPos v).phSrc3 = s.phSrc3 := rfl
@[simp] theorem setDnsPos_phDst0 (s : State) (v : Word) : (s.setDnsPos v).phDst0 = s.phDst0 := rfl
@[simp] theorem setDnsPos_phDst1 (s : State) (v : Word) : (s.setDnsPos v).phDst1 = s.phDst1 := rfl
@[simp] theorem setDnsPos_phDst2 (s : State) (v : Word) : (s.setDnsPos v).phDst2 = s.phDst2 := rfl
@[simp] theorem setDnsPos_phDst3 (s : State) (v : Word) : (s.setDnsPos v).phDst3 = s.phDst3 := rfl
@[simp] theorem setDnsPos_crc (s : State) (v : Word) : (s.setDnsPos v).crc = s.crc := rfl
@[simp] theorem setDnsPos_adlA (s : State) (v : Word) : (s.setDnsPos v).adlA = s.adlA := rfl
@[simp] theorem setDnsPos_adlB (s : State) (v : Word) : (s.setDnsPos v).adlB = s.adlB := rfl
@[simp] theorem setDnsPos_dnsBase (s : State) (v : Word) : (s.setDnsPos v).dnsBase = s.dnsBase := rfl
@[simp] theorem setDnsPos_dnsLen (s : State) (v : Word) : (s.setDnsPos v).dnsLen = s.dnsLen := rfl
@[simp] theorem setDnsPos_dnsPos (s : State) (v : Word) : (s.setDnsPos v).dnsPos = v := rfl
@[simp] theorem setDnsPos_nameLen (s : State) (v : Word) : (s.setDnsPos v).nameLen = s.nameLen := rfl
@[simp] theorem setDnsPos_name (s : State) (v : Word) : (s.setDnsPos v).name = s.name := rfl
@[simp] theorem setDnsPos_dreg (s : State) (v : Word) : (s.setDnsPos v).dreg = s.dreg := rfl
@[simp] theorem setDnsPos_ereg (s : State) (v : Word) : (s.setDnsPos v).ereg = s.ereg := rfl
@[simp] theorem setDnsPos_buf (s : State) (v : Word) : (s.setDnsPos v).buf = s.buf := rfl
@[simp] theorem setDnsPos_epoch (s : State) (v : Word) : (s.setDnsPos v).epoch = s.epoch := rfl
@[simp] theorem setDnsPos_port (s : State) (v : Word) : (s.setDnsPos v).port = s.port := rfl
@[simp] theorem setDnsPos_rdata (s : State) (v : Word) : (s.setDnsPos v).rdata = s.rdata := rfl
@[simp] theorem setDnsPos_toSurroundings (s : State) (v : Word) : (s.setDnsPos v).toSurroundings = s.toSurroundings := rfl

/-! ### setNameLen -/

@[simp] theorem setNameLen_params (s : State) (v : Word) : (s.setNameLen v).params = s.params := rfl
@[simp] theorem setNameLen_fault (s : State) (v : Word) : (s.setNameLen v).fault = s.fault := rfl
@[simp] theorem setNameLen_errCode (s : State) (v : Word) : (s.setNameLen v).errCode = s.errCode := rfl
@[simp] theorem setNameLen_errPos (s : State) (v : Word) : (s.setNameLen v).errPos = s.errPos := rfl
@[simp] theorem setNameLen_errCmd (s : State) (v : Word) : (s.setNameLen v).errCmd = s.errCmd := rfl
@[simp] theorem setNameLen_argPtr (s : State) (v : Word) : (s.setNameLen v).argPtr = s.argPtr := rfl
@[simp] theorem setNameLen_argCnt (s : State) (v : Word) : (s.setNameLen v).argCnt = s.argCnt := rfl
@[simp] theorem setNameLen_sum (s : State) (v : Word) : (s.setNameLen v).sum = s.sum := rfl
@[simp] theorem setNameLen_hold (s : State) (v : Word) : (s.setNameLen v).hold = s.hold := rfl
@[simp] theorem setNameLen_odd (s : State) (v : Word) : (s.setNameLen v).odd = s.odd := rfl
@[simp] theorem setNameLen_phCtl (s : State) (v : Word) : (s.setNameLen v).phCtl = s.phCtl := rfl
@[simp] theorem setNameLen_phProto (s : State) (v : Word) : (s.setNameLen v).phProto = s.phProto := rfl
@[simp] theorem setNameLen_phLen (s : State) (v : Word) : (s.setNameLen v).phLen = s.phLen := rfl
@[simp] theorem setNameLen_phSrc0 (s : State) (v : Word) : (s.setNameLen v).phSrc0 = s.phSrc0 := rfl
@[simp] theorem setNameLen_phSrc1 (s : State) (v : Word) : (s.setNameLen v).phSrc1 = s.phSrc1 := rfl
@[simp] theorem setNameLen_phSrc2 (s : State) (v : Word) : (s.setNameLen v).phSrc2 = s.phSrc2 := rfl
@[simp] theorem setNameLen_phSrc3 (s : State) (v : Word) : (s.setNameLen v).phSrc3 = s.phSrc3 := rfl
@[simp] theorem setNameLen_phDst0 (s : State) (v : Word) : (s.setNameLen v).phDst0 = s.phDst0 := rfl
@[simp] theorem setNameLen_phDst1 (s : State) (v : Word) : (s.setNameLen v).phDst1 = s.phDst1 := rfl
@[simp] theorem setNameLen_phDst2 (s : State) (v : Word) : (s.setNameLen v).phDst2 = s.phDst2 := rfl
@[simp] theorem setNameLen_phDst3 (s : State) (v : Word) : (s.setNameLen v).phDst3 = s.phDst3 := rfl
@[simp] theorem setNameLen_crc (s : State) (v : Word) : (s.setNameLen v).crc = s.crc := rfl
@[simp] theorem setNameLen_adlA (s : State) (v : Word) : (s.setNameLen v).adlA = s.adlA := rfl
@[simp] theorem setNameLen_adlB (s : State) (v : Word) : (s.setNameLen v).adlB = s.adlB := rfl
@[simp] theorem setNameLen_dnsBase (s : State) (v : Word) : (s.setNameLen v).dnsBase = s.dnsBase := rfl
@[simp] theorem setNameLen_dnsLen (s : State) (v : Word) : (s.setNameLen v).dnsLen = s.dnsLen := rfl
@[simp] theorem setNameLen_dnsPos (s : State) (v : Word) : (s.setNameLen v).dnsPos = s.dnsPos := rfl
@[simp] theorem setNameLen_nameLen (s : State) (v : Word) : (s.setNameLen v).nameLen = v := rfl
@[simp] theorem setNameLen_name (s : State) (v : Word) : (s.setNameLen v).name = s.name := rfl
@[simp] theorem setNameLen_dreg (s : State) (v : Word) : (s.setNameLen v).dreg = s.dreg := rfl
@[simp] theorem setNameLen_ereg (s : State) (v : Word) : (s.setNameLen v).ereg = s.ereg := rfl
@[simp] theorem setNameLen_buf (s : State) (v : Word) : (s.setNameLen v).buf = s.buf := rfl
@[simp] theorem setNameLen_epoch (s : State) (v : Word) : (s.setNameLen v).epoch = s.epoch := rfl
@[simp] theorem setNameLen_port (s : State) (v : Word) : (s.setNameLen v).port = s.port := rfl
@[simp] theorem setNameLen_rdata (s : State) (v : Word) : (s.setNameLen v).rdata = s.rdata := rfl
@[simp] theorem setNameLen_toSurroundings (s : State) (v : Word) : (s.setNameLen v).toSurroundings = s.toSurroundings := rfl

/-! ### setDreg -/

@[simp] theorem setDreg_params (s : State) (m : List (Word × List Byte)) : (s.setDreg m).params = s.params := rfl
@[simp] theorem setDreg_fault (s : State) (m : List (Word × List Byte)) : (s.setDreg m).fault = s.fault := rfl
@[simp] theorem setDreg_errCode (s : State) (m : List (Word × List Byte)) : (s.setDreg m).errCode = s.errCode := rfl
@[simp] theorem setDreg_errPos (s : State) (m : List (Word × List Byte)) : (s.setDreg m).errPos = s.errPos := rfl
@[simp] theorem setDreg_errCmd (s : State) (m : List (Word × List Byte)) : (s.setDreg m).errCmd = s.errCmd := rfl
@[simp] theorem setDreg_argPtr (s : State) (m : List (Word × List Byte)) : (s.setDreg m).argPtr = s.argPtr := rfl
@[simp] theorem setDreg_argCnt (s : State) (m : List (Word × List Byte)) : (s.setDreg m).argCnt = s.argCnt := rfl
@[simp] theorem setDreg_sum (s : State) (m : List (Word × List Byte)) : (s.setDreg m).sum = s.sum := rfl
@[simp] theorem setDreg_hold (s : State) (m : List (Word × List Byte)) : (s.setDreg m).hold = s.hold := rfl
@[simp] theorem setDreg_odd (s : State) (m : List (Word × List Byte)) : (s.setDreg m).odd = s.odd := rfl
@[simp] theorem setDreg_phCtl (s : State) (m : List (Word × List Byte)) : (s.setDreg m).phCtl = s.phCtl := rfl
@[simp] theorem setDreg_phProto (s : State) (m : List (Word × List Byte)) : (s.setDreg m).phProto = s.phProto := rfl
@[simp] theorem setDreg_phLen (s : State) (m : List (Word × List Byte)) : (s.setDreg m).phLen = s.phLen := rfl
@[simp] theorem setDreg_phSrc0 (s : State) (m : List (Word × List Byte)) : (s.setDreg m).phSrc0 = s.phSrc0 := rfl
@[simp] theorem setDreg_phSrc1 (s : State) (m : List (Word × List Byte)) : (s.setDreg m).phSrc1 = s.phSrc1 := rfl
@[simp] theorem setDreg_phSrc2 (s : State) (m : List (Word × List Byte)) : (s.setDreg m).phSrc2 = s.phSrc2 := rfl
@[simp] theorem setDreg_phSrc3 (s : State) (m : List (Word × List Byte)) : (s.setDreg m).phSrc3 = s.phSrc3 := rfl
@[simp] theorem setDreg_phDst0 (s : State) (m : List (Word × List Byte)) : (s.setDreg m).phDst0 = s.phDst0 := rfl
@[simp] theorem setDreg_phDst1 (s : State) (m : List (Word × List Byte)) : (s.setDreg m).phDst1 = s.phDst1 := rfl
@[simp] theorem setDreg_phDst2 (s : State) (m : List (Word × List Byte)) : (s.setDreg m).phDst2 = s.phDst2 := rfl
@[simp] theorem setDreg_phDst3 (s : State) (m : List (Word × List Byte)) : (s.setDreg m).phDst3 = s.phDst3 := rfl
@[simp] theorem setDreg_crc (s : State) (m : List (Word × List Byte)) : (s.setDreg m).crc = s.crc := rfl
@[simp] theorem setDreg_adlA (s : State) (m : List (Word × List Byte)) : (s.setDreg m).adlA = s.adlA := rfl
@[simp] theorem setDreg_adlB (s : State) (m : List (Word × List Byte)) : (s.setDreg m).adlB = s.adlB := rfl
@[simp] theorem setDreg_dnsBase (s : State) (m : List (Word × List Byte)) : (s.setDreg m).dnsBase = s.dnsBase := rfl
@[simp] theorem setDreg_dnsLen (s : State) (m : List (Word × List Byte)) : (s.setDreg m).dnsLen = s.dnsLen := rfl
@[simp] theorem setDreg_dnsPos (s : State) (m : List (Word × List Byte)) : (s.setDreg m).dnsPos = s.dnsPos := rfl
@[simp] theorem setDreg_nameLen (s : State) (m : List (Word × List Byte)) : (s.setDreg m).nameLen = s.nameLen := rfl
@[simp] theorem setDreg_name (s : State) (m : List (Word × List Byte)) : (s.setDreg m).name = s.name := rfl
@[simp] theorem setDreg_dreg (s : State) (m : List (Word × List Byte)) : (s.setDreg m).dreg = m := rfl
@[simp] theorem setDreg_ereg (s : State) (m : List (Word × List Byte)) : (s.setDreg m).ereg = s.ereg := rfl
@[simp] theorem setDreg_buf (s : State) (m : List (Word × List Byte)) : (s.setDreg m).buf = s.buf := rfl
@[simp] theorem setDreg_epoch (s : State) (m : List (Word × List Byte)) : (s.setDreg m).epoch = s.epoch := rfl
@[simp] theorem setDreg_port (s : State) (m : List (Word × List Byte)) : (s.setDreg m).port = s.port := rfl
@[simp] theorem setDreg_rdata (s : State) (m : List (Word × List Byte)) : (s.setDreg m).rdata = s.rdata := rfl
@[simp] theorem setDreg_toSurroundings (s : State) (m : List (Word × List Byte)) : (s.setDreg m).toSurroundings = s.toSurroundings := rfl

/-! ### setEreg -/

@[simp] theorem setEreg_params (s : State) (m : List (List Byte × Word)) : (s.setEreg m).params = s.params := rfl
@[simp] theorem setEreg_fault (s : State) (m : List (List Byte × Word)) : (s.setEreg m).fault = s.fault := rfl
@[simp] theorem setEreg_errCode (s : State) (m : List (List Byte × Word)) : (s.setEreg m).errCode = s.errCode := rfl
@[simp] theorem setEreg_errPos (s : State) (m : List (List Byte × Word)) : (s.setEreg m).errPos = s.errPos := rfl
@[simp] theorem setEreg_errCmd (s : State) (m : List (List Byte × Word)) : (s.setEreg m).errCmd = s.errCmd := rfl
@[simp] theorem setEreg_argPtr (s : State) (m : List (List Byte × Word)) : (s.setEreg m).argPtr = s.argPtr := rfl
@[simp] theorem setEreg_argCnt (s : State) (m : List (List Byte × Word)) : (s.setEreg m).argCnt = s.argCnt := rfl
@[simp] theorem setEreg_sum (s : State) (m : List (List Byte × Word)) : (s.setEreg m).sum = s.sum := rfl
@[simp] theorem setEreg_hold (s : State) (m : List (List Byte × Word)) : (s.setEreg m).hold = s.hold := rfl
@[simp] theorem setEreg_odd (s : State) (m : List (List Byte × Word)) : (s.setEreg m).odd = s.odd := rfl
@[simp] theorem setEreg_phCtl (s : State) (m : List (List Byte × Word)) : (s.setEreg m).phCtl = s.phCtl := rfl
@[simp] theorem setEreg_phProto (s : State) (m : List (List Byte × Word)) : (s.setEreg m).phProto = s.phProto := rfl
@[simp] theorem setEreg_phLen (s : State) (m : List (List Byte × Word)) : (s.setEreg m).phLen = s.phLen := rfl
@[simp] theorem setEreg_phSrc0 (s : State) (m : List (List Byte × Word)) : (s.setEreg m).phSrc0 = s.phSrc0 := rfl
@[simp] theorem setEreg_phSrc1 (s : State) (m : List (List Byte × Word)) : (s.setEreg m).phSrc1 = s.phSrc1 := rfl
@[simp] theorem setEreg_phSrc2 (s : State) (m : List (List Byte × Word)) : (s.setEreg m).phSrc2 = s.phSrc2 := rfl
@[simp] theorem setEreg_phSrc3 (s : State) (m : List (List Byte × Word)) : (s.setEreg m).phSrc3 = s.phSrc3 := rfl
@[simp] theorem setEreg_phDst0 (s : State) (m : List (List Byte × Word)) : (s.setEreg m).phDst0 = s.phDst0 := rfl
@[simp] theorem setEreg_phDst1 (s : State) (m : List (List Byte × Word)) : (s.setEreg m).phDst1 = s.phDst1 := rfl
@[simp] theorem setEreg_phDst2 (s : State) (m : List (List Byte × Word)) : (s.setEreg m).phDst2 = s.phDst2 := rfl
@[simp] theorem setEreg_phDst3 (s : State) (m : List (List Byte × Word)) : (s.setEreg m).phDst3 = s.phDst3 := rfl
@[simp] theorem setEreg_crc (s : State) (m : List (List Byte × Word)) : (s.setEreg m).crc = s.crc := rfl
@[simp] theorem setEreg_adlA (s : State) (m : List (List Byte × Word)) : (s.setEreg m).adlA = s.adlA := rfl
@[simp] theorem setEreg_adlB (s : State) (m : List (List Byte × Word)) : (s.setEreg m).adlB = s.adlB := rfl
@[simp] theorem setEreg_dnsBase (s : State) (m : List (List Byte × Word)) : (s.setEreg m).dnsBase = s.dnsBase := rfl
@[simp] theorem setEreg_dnsLen (s : State) (m : List (List Byte × Word)) : (s.setEreg m).dnsLen = s.dnsLen := rfl
@[simp] theorem setEreg_dnsPos (s : State) (m : List (List Byte × Word)) : (s.setEreg m).dnsPos = s.dnsPos := rfl
@[simp] theorem setEreg_nameLen (s : State) (m : List (List Byte × Word)) : (s.setEreg m).nameLen = s.nameLen := rfl
@[simp] theorem setEreg_name (s : State) (m : List (List Byte × Word)) : (s.setEreg m).name = s.name := rfl
@[simp] theorem setEreg_dreg (s : State) (m : List (List Byte × Word)) : (s.setEreg m).dreg = s.dreg := rfl
@[simp] theorem setEreg_ereg (s : State) (m : List (List Byte × Word)) : (s.setEreg m).ereg = m := rfl
@[simp] theorem setEreg_buf (s : State) (m : List (List Byte × Word)) : (s.setEreg m).buf = s.buf := rfl
@[simp] theorem setEreg_epoch (s : State) (m : List (List Byte × Word)) : (s.setEreg m).epoch = s.epoch := rfl
@[simp] theorem setEreg_port (s : State) (m : List (List Byte × Word)) : (s.setEreg m).port = s.port := rfl
@[simp] theorem setEreg_rdata (s : State) (m : List (List Byte × Word)) : (s.setEreg m).rdata = s.rdata := rfl
@[simp] theorem setEreg_toSurroundings (s : State) (m : List (List Byte × Word)) : (s.setEreg m).toSurroundings = s.toSurroundings := rfl

/-! ### setRdata -/

@[simp] theorem setRdata_params (s : State) (v : Option Word) : (s.setRdata v).params = s.params := rfl
@[simp] theorem setRdata_fault (s : State) (v : Option Word) : (s.setRdata v).fault = s.fault := rfl
@[simp] theorem setRdata_errCode (s : State) (v : Option Word) : (s.setRdata v).errCode = s.errCode := rfl
@[simp] theorem setRdata_errPos (s : State) (v : Option Word) : (s.setRdata v).errPos = s.errPos := rfl
@[simp] theorem setRdata_errCmd (s : State) (v : Option Word) : (s.setRdata v).errCmd = s.errCmd := rfl
@[simp] theorem setRdata_argPtr (s : State) (v : Option Word) : (s.setRdata v).argPtr = s.argPtr := rfl
@[simp] theorem setRdata_argCnt (s : State) (v : Option Word) : (s.setRdata v).argCnt = s.argCnt := rfl
@[simp] theorem setRdata_sum (s : State) (v : Option Word) : (s.setRdata v).sum = s.sum := rfl
@[simp] theorem setRdata_hold (s : State) (v : Option Word) : (s.setRdata v).hold = s.hold := rfl
@[simp] theorem setRdata_odd (s : State) (v : Option Word) : (s.setRdata v).odd = s.odd := rfl
@[simp] theorem setRdata_phCtl (s : State) (v : Option Word) : (s.setRdata v).phCtl = s.phCtl := rfl
@[simp] theorem setRdata_phProto (s : State) (v : Option Word) : (s.setRdata v).phProto = s.phProto := rfl
@[simp] theorem setRdata_phLen (s : State) (v : Option Word) : (s.setRdata v).phLen = s.phLen := rfl
@[simp] theorem setRdata_phSrc0 (s : State) (v : Option Word) : (s.setRdata v).phSrc0 = s.phSrc0 := rfl
@[simp] theorem setRdata_phSrc1 (s : State) (v : Option Word) : (s.setRdata v).phSrc1 = s.phSrc1 := rfl
@[simp] theorem setRdata_phSrc2 (s : State) (v : Option Word) : (s.setRdata v).phSrc2 = s.phSrc2 := rfl
@[simp] theorem setRdata_phSrc3 (s : State) (v : Option Word) : (s.setRdata v).phSrc3 = s.phSrc3 := rfl
@[simp] theorem setRdata_phDst0 (s : State) (v : Option Word) : (s.setRdata v).phDst0 = s.phDst0 := rfl
@[simp] theorem setRdata_phDst1 (s : State) (v : Option Word) : (s.setRdata v).phDst1 = s.phDst1 := rfl
@[simp] theorem setRdata_phDst2 (s : State) (v : Option Word) : (s.setRdata v).phDst2 = s.phDst2 := rfl
@[simp] theorem setRdata_phDst3 (s : State) (v : Option Word) : (s.setRdata v).phDst3 = s.phDst3 := rfl
@[simp] theorem setRdata_crc (s : State) (v : Option Word) : (s.setRdata v).crc = s.crc := rfl
@[simp] theorem setRdata_adlA (s : State) (v : Option Word) : (s.setRdata v).adlA = s.adlA := rfl
@[simp] theorem setRdata_adlB (s : State) (v : Option Word) : (s.setRdata v).adlB = s.adlB := rfl
@[simp] theorem setRdata_dnsBase (s : State) (v : Option Word) : (s.setRdata v).dnsBase = s.dnsBase := rfl
@[simp] theorem setRdata_dnsLen (s : State) (v : Option Word) : (s.setRdata v).dnsLen = s.dnsLen := rfl
@[simp] theorem setRdata_dnsPos (s : State) (v : Option Word) : (s.setRdata v).dnsPos = s.dnsPos := rfl
@[simp] theorem setRdata_nameLen (s : State) (v : Option Word) : (s.setRdata v).nameLen = s.nameLen := rfl
@[simp] theorem setRdata_name (s : State) (v : Option Word) : (s.setRdata v).name = s.name := rfl
@[simp] theorem setRdata_dreg (s : State) (v : Option Word) : (s.setRdata v).dreg = s.dreg := rfl
@[simp] theorem setRdata_ereg (s : State) (v : Option Word) : (s.setRdata v).ereg = s.ereg := rfl
@[simp] theorem setRdata_buf (s : State) (v : Option Word) : (s.setRdata v).buf = s.buf := rfl
@[simp] theorem setRdata_epoch (s : State) (v : Option Word) : (s.setRdata v).epoch = s.epoch := rfl
@[simp] theorem setRdata_port (s : State) (v : Option Word) : (s.setRdata v).port = s.port := rfl
@[simp] theorem setRdata_rdata (s : State) (v : Option Word) : (s.setRdata v).rdata = v := rfl
@[simp] theorem setRdata_toEngineState (s : State) (v : Option Word) : (s.setRdata v).toEngineState = s.toEngineState := rfl

/-! ### setPort -/

@[simp] theorem setPort_params (s : State) (es : List HostEvent) : (s.setPort es).params = s.params := rfl
@[simp] theorem setPort_fault (s : State) (es : List HostEvent) : (s.setPort es).fault = s.fault := rfl
@[simp] theorem setPort_errCode (s : State) (es : List HostEvent) : (s.setPort es).errCode = s.errCode := rfl
@[simp] theorem setPort_errPos (s : State) (es : List HostEvent) : (s.setPort es).errPos = s.errPos := rfl
@[simp] theorem setPort_errCmd (s : State) (es : List HostEvent) : (s.setPort es).errCmd = s.errCmd := rfl
@[simp] theorem setPort_argPtr (s : State) (es : List HostEvent) : (s.setPort es).argPtr = s.argPtr := rfl
@[simp] theorem setPort_argCnt (s : State) (es : List HostEvent) : (s.setPort es).argCnt = s.argCnt := rfl
@[simp] theorem setPort_sum (s : State) (es : List HostEvent) : (s.setPort es).sum = s.sum := rfl
@[simp] theorem setPort_hold (s : State) (es : List HostEvent) : (s.setPort es).hold = s.hold := rfl
@[simp] theorem setPort_odd (s : State) (es : List HostEvent) : (s.setPort es).odd = s.odd := rfl
@[simp] theorem setPort_phCtl (s : State) (es : List HostEvent) : (s.setPort es).phCtl = s.phCtl := rfl
@[simp] theorem setPort_phProto (s : State) (es : List HostEvent) : (s.setPort es).phProto = s.phProto := rfl
@[simp] theorem setPort_phLen (s : State) (es : List HostEvent) : (s.setPort es).phLen = s.phLen := rfl
@[simp] theorem setPort_phSrc0 (s : State) (es : List HostEvent) : (s.setPort es).phSrc0 = s.phSrc0 := rfl
@[simp] theorem setPort_phSrc1 (s : State) (es : List HostEvent) : (s.setPort es).phSrc1 = s.phSrc1 := rfl
@[simp] theorem setPort_phSrc2 (s : State) (es : List HostEvent) : (s.setPort es).phSrc2 = s.phSrc2 := rfl
@[simp] theorem setPort_phSrc3 (s : State) (es : List HostEvent) : (s.setPort es).phSrc3 = s.phSrc3 := rfl
@[simp] theorem setPort_phDst0 (s : State) (es : List HostEvent) : (s.setPort es).phDst0 = s.phDst0 := rfl
@[simp] theorem setPort_phDst1 (s : State) (es : List HostEvent) : (s.setPort es).phDst1 = s.phDst1 := rfl
@[simp] theorem setPort_phDst2 (s : State) (es : List HostEvent) : (s.setPort es).phDst2 = s.phDst2 := rfl
@[simp] theorem setPort_phDst3 (s : State) (es : List HostEvent) : (s.setPort es).phDst3 = s.phDst3 := rfl
@[simp] theorem setPort_crc (s : State) (es : List HostEvent) : (s.setPort es).crc = s.crc := rfl
@[simp] theorem setPort_adlA (s : State) (es : List HostEvent) : (s.setPort es).adlA = s.adlA := rfl
@[simp] theorem setPort_adlB (s : State) (es : List HostEvent) : (s.setPort es).adlB = s.adlB := rfl
@[simp] theorem setPort_dnsBase (s : State) (es : List HostEvent) : (s.setPort es).dnsBase = s.dnsBase := rfl
@[simp] theorem setPort_dnsLen (s : State) (es : List HostEvent) : (s.setPort es).dnsLen = s.dnsLen := rfl
@[simp] theorem setPort_dnsPos (s : State) (es : List HostEvent) : (s.setPort es).dnsPos = s.dnsPos := rfl
@[simp] theorem setPort_nameLen (s : State) (es : List HostEvent) : (s.setPort es).nameLen = s.nameLen := rfl
@[simp] theorem setPort_name (s : State) (es : List HostEvent) : (s.setPort es).name = s.name := rfl
@[simp] theorem setPort_dreg (s : State) (es : List HostEvent) : (s.setPort es).dreg = s.dreg := rfl
@[simp] theorem setPort_ereg (s : State) (es : List HostEvent) : (s.setPort es).ereg = s.ereg := rfl
@[simp] theorem setPort_buf (s : State) (es : List HostEvent) : (s.setPort es).buf = s.buf := rfl
@[simp] theorem setPort_epoch (s : State) (es : List HostEvent) : (s.setPort es).epoch = s.epoch := rfl
@[simp] theorem setPort_port (s : State) (es : List HostEvent) : (s.setPort es).port = es := rfl
@[simp] theorem setPort_rdata (s : State) (es : List HostEvent) : (s.setPort es).rdata = s.rdata := rfl
@[simp] theorem setPort_toEngineState (s : State) (es : List HostEvent) : (s.setPort es).toEngineState = s.toEngineState := rfl

/-! ### recordFault -/

@[simp] theorem recordFault_params (s : State) (c : Byte) (p w : Word) : (s.recordFault c p w).params = s.params := rfl
@[simp] theorem recordFault_fault (s : State) (c : Byte) (p w : Word) : (s.recordFault c p w).fault = true := rfl
@[simp] theorem recordFault_errCode (s : State) (c : Byte) (p w : Word) : (s.recordFault c p w).errCode = c := rfl
@[simp] theorem recordFault_errPos (s : State) (c : Byte) (p w : Word) : (s.recordFault c p w).errPos = p := rfl
@[simp] theorem recordFault_errCmd (s : State) (c : Byte) (p w : Word) : (s.recordFault c p w).errCmd = w := rfl
@[simp] theorem recordFault_argPtr (s : State) (c : Byte) (p w : Word) : (s.recordFault c p w).argPtr = s.argPtr := rfl
@[simp] theorem recordFault_argCnt (s : State) (c : Byte) (p w : Word) : (s.recordFault c p w).argCnt = s.argCnt := rfl
@[simp] theorem recordFault_sum (s : State) (c : Byte) (p w : Word) : (s.recordFault c p w).sum = s.sum := rfl
@[simp] theorem recordFault_hold (s : State) (c : Byte) (p w : Word) : (s.recordFault c p w).hold = s.hold := rfl
@[simp] theorem recordFault_odd (s : State) (c : Byte) (p w : Word) : (s.recordFault c p w).odd = s.odd := rfl
@[simp] theorem recordFault_phCtl (s : State) (c : Byte) (p w : Word) : (s.recordFault c p w).phCtl = s.phCtl := rfl
@[simp] theorem recordFault_phProto (s : State) (c : Byte) (p w : Word) : (s.recordFault c p w).phProto = s.phProto := rfl
@[simp] theorem recordFault_phLen (s : State) (c : Byte) (p w : Word) : (s.recordFault c p w).phLen = s.phLen := rfl
@[simp] theorem recordFault_phSrc0 (s : State) (c : Byte) (p w : Word) : (s.recordFault c p w).phSrc0 = s.phSrc0 := rfl
@[simp] theorem recordFault_phSrc1 (s : State) (c : Byte) (p w : Word) : (s.recordFault c p w).phSrc1 = s.phSrc1 := rfl
@[simp] theorem recordFault_phSrc2 (s : State) (c : Byte) (p w : Word) : (s.recordFault c p w).phSrc2 = s.phSrc2 := rfl
@[simp] theorem recordFault_phSrc3 (s : State) (c : Byte) (p w : Word) : (s.recordFault c p w).phSrc3 = s.phSrc3 := rfl
@[simp] theorem recordFault_phDst0 (s : State) (c : Byte) (p w : Word) : (s.recordFault c p w).phDst0 = s.phDst0 := rfl
@[simp] theorem recordFault_phDst1 (s : State) (c : Byte) (p w : Word) : (s.recordFault c p w).phDst1 = s.phDst1 := rfl
@[simp] theorem recordFault_phDst2 (s : State) (c : Byte) (p w : Word) : (s.recordFault c p w).phDst2 = s.phDst2 := rfl
@[simp] theorem recordFault_phDst3 (s : State) (c : Byte) (p w : Word) : (s.recordFault c p w).phDst3 = s.phDst3 := rfl
@[simp] theorem recordFault_crc (s : State) (c : Byte) (p w : Word) : (s.recordFault c p w).crc = s.crc := rfl
@[simp] theorem recordFault_adlA (s : State) (c : Byte) (p w : Word) : (s.recordFault c p w).adlA = s.adlA := rfl
@[simp] theorem recordFault_adlB (s : State) (c : Byte) (p w : Word) : (s.recordFault c p w).adlB = s.adlB := rfl
@[simp] theorem recordFault_dnsBase (s : State) (c : Byte) (p w : Word) : (s.recordFault c p w).dnsBase = s.dnsBase := rfl
@[simp] theorem recordFault_dnsLen (s : State) (c : Byte) (p w : Word) : (s.recordFault c p w).dnsLen = s.dnsLen := rfl
@[simp] theorem recordFault_dnsPos (s : State) (c : Byte) (p w : Word) : (s.recordFault c p w).dnsPos = s.dnsPos := rfl
@[simp] theorem recordFault_nameLen (s : State) (c : Byte) (p w : Word) : (s.recordFault c p w).nameLen = s.nameLen := rfl
@[simp] theorem recordFault_name (s : State) (c : Byte) (p w : Word) : (s.recordFault c p w).name = s.name := rfl
@[simp] theorem recordFault_dreg (s : State) (c : Byte) (p w : Word) : (s.recordFault c p w).dreg = s.dreg := rfl
@[simp] theorem recordFault_ereg (s : State) (c : Byte) (p w : Word) : (s.recordFault c p w).ereg = s.ereg := rfl
@[simp] theorem recordFault_buf (s : State) (c : Byte) (p w : Word) : (s.recordFault c p w).buf = s.buf := rfl
@[simp] theorem recordFault_epoch (s : State) (c : Byte) (p w : Word) : (s.recordFault c p w).epoch = s.epoch := rfl
@[simp] theorem recordFault_port (s : State) (c : Byte) (p w : Word) : (s.recordFault c p w).port = s.port := rfl
@[simp] theorem recordFault_rdata (s : State) (c : Byte) (p w : Word) : (s.recordFault c p w).rdata = s.rdata := rfl
@[simp] theorem recordFault_toSurroundings (s : State) (c : Byte) (p w : Word) : (s.recordFault c p w).toSurroundings = s.toSurroundings := rfl

/-! ### bufWrite -/

@[simp] theorem bufWrite_params (s : State) (a : Nat) (b : Byte) : (bufWrite s a b).params = s.params := rfl
@[simp] theorem bufWrite_fault (s : State) (a : Nat) (b : Byte) : (bufWrite s a b).fault = s.fault := rfl
@[simp] theorem bufWrite_errCode (s : State) (a : Nat) (b : Byte) : (bufWrite s a b).errCode = s.errCode := rfl
@[simp] theorem bufWrite_errPos (s : State) (a : Nat) (b : Byte) : (bufWrite s a b).errPos = s.errPos := rfl
@[simp] theorem bufWrite_errCmd (s : State) (a : Nat) (b : Byte) : (bufWrite s a b).errCmd = s.errCmd := rfl
@[simp] theorem bufWrite_argPtr (s : State) (a : Nat) (b : Byte) : (bufWrite s a b).argPtr = s.argPtr := rfl
@[simp] theorem bufWrite_argCnt (s : State) (a : Nat) (b : Byte) : (bufWrite s a b).argCnt = s.argCnt := rfl
@[simp] theorem bufWrite_sum (s : State) (a : Nat) (b : Byte) : (bufWrite s a b).sum = s.sum := rfl
@[simp] theorem bufWrite_hold (s : State) (a : Nat) (b : Byte) : (bufWrite s a b).hold = s.hold := rfl
@[simp] theorem bufWrite_odd (s : State) (a : Nat) (b : Byte) : (bufWrite s a b).odd = s.odd := rfl
@[simp] theorem bufWrite_phCtl (s : State) (a : Nat) (b : Byte) : (bufWrite s a b).phCtl = s.phCtl := rfl
@[simp] theorem bufWrite_phProto (s : State) (a : Nat) (b : Byte) : (bufWrite s a b).phProto = s.phProto := rfl
@[simp] theorem bufWrite_phLen (s : State) (a : Nat) (b : Byte) : (bufWrite s a b).phLen = s.phLen := rfl
@[simp] theorem bufWrite_phSrc0 (s : State) (a : Nat) (b : Byte) : (bufWrite s a b).phSrc0 = s.phSrc0 := rfl
@[simp] theorem bufWrite_phSrc1 (s : State) (a : Nat) (b : Byte) : (bufWrite s a b).phSrc1 = s.phSrc1 := rfl
@[simp] theorem bufWrite_phSrc2 (s : State) (a : Nat) (b : Byte) : (bufWrite s a b).phSrc2 = s.phSrc2 := rfl
@[simp] theorem bufWrite_phSrc3 (s : State) (a : Nat) (b : Byte) : (bufWrite s a b).phSrc3 = s.phSrc3 := rfl
@[simp] theorem bufWrite_phDst0 (s : State) (a : Nat) (b : Byte) : (bufWrite s a b).phDst0 = s.phDst0 := rfl
@[simp] theorem bufWrite_phDst1 (s : State) (a : Nat) (b : Byte) : (bufWrite s a b).phDst1 = s.phDst1 := rfl
@[simp] theorem bufWrite_phDst2 (s : State) (a : Nat) (b : Byte) : (bufWrite s a b).phDst2 = s.phDst2 := rfl
@[simp] theorem bufWrite_phDst3 (s : State) (a : Nat) (b : Byte) : (bufWrite s a b).phDst3 = s.phDst3 := rfl
@[simp] theorem bufWrite_crc (s : State) (a : Nat) (b : Byte) : (bufWrite s a b).crc = s.crc := rfl
@[simp] theorem bufWrite_adlA (s : State) (a : Nat) (b : Byte) : (bufWrite s a b).adlA = s.adlA := rfl
@[simp] theorem bufWrite_adlB (s : State) (a : Nat) (b : Byte) : (bufWrite s a b).adlB = s.adlB := rfl
@[simp] theorem bufWrite_dnsBase (s : State) (a : Nat) (b : Byte) : (bufWrite s a b).dnsBase = s.dnsBase := rfl
@[simp] theorem bufWrite_dnsLen (s : State) (a : Nat) (b : Byte) : (bufWrite s a b).dnsLen = s.dnsLen := rfl
@[simp] theorem bufWrite_dnsPos (s : State) (a : Nat) (b : Byte) : (bufWrite s a b).dnsPos = s.dnsPos := rfl
@[simp] theorem bufWrite_nameLen (s : State) (a : Nat) (b : Byte) : (bufWrite s a b).nameLen = s.nameLen := rfl
@[simp] theorem bufWrite_name (s : State) (a : Nat) (b : Byte) : (bufWrite s a b).name = s.name := rfl
@[simp] theorem bufWrite_dreg (s : State) (a : Nat) (b : Byte) : (bufWrite s a b).dreg = s.dreg := rfl
@[simp] theorem bufWrite_ereg (s : State) (a : Nat) (b : Byte) : (bufWrite s a b).ereg = s.ereg := rfl
@[simp] theorem bufWrite_buf (s : State) (a : Nat) (b : Byte) : (bufWrite s a b).buf = mapPut natLt a b s.buf := rfl
@[simp] theorem bufWrite_epoch (s : State) (a : Nat) (b : Byte) : (bufWrite s a b).epoch = s.epoch := rfl
@[simp] theorem bufWrite_port (s : State) (a : Nat) (b : Byte) : (bufWrite s a b).port = s.port := rfl
@[simp] theorem bufWrite_rdata (s : State) (a : Nat) (b : Byte) : (bufWrite s a b).rdata = s.rdata := rfl
@[simp] theorem bufWrite_toSurroundings (s : State) (a : Nat) (b : Byte) : (bufWrite s a b).toSurroundings = s.toSurroundings := rfl

/-! ### nameWrite -/

@[simp] theorem nameWrite_params (s : State) (i : Nat) (b : Byte) : (nameWrite s i b).params = s.params := rfl
@[simp] theorem nameWrite_fault (s : State) (i : Nat) (b : Byte) : (nameWrite s i b).fault = s.fault := rfl
@[simp] theorem nameWrite_errCode (s : State) (i : Nat) (b : Byte) : (nameWrite s i b).errCode = s.errCode := rfl
@[simp] theorem nameWrite_errPos (s : State) (i : Nat) (b : Byte) : (nameWrite s i b).errPos = s.errPos := rfl
@[simp] theorem nameWrite_errCmd (s : State) (i : Nat) (b : Byte) : (nameWrite s i b).errCmd = s.errCmd := rfl
@[simp] theorem nameWrite_argPtr (s : State) (i : Nat) (b : Byte) : (nameWrite s i b).argPtr = s.argPtr := rfl
@[simp] theorem nameWrite_argCnt (s : State) (i : Nat) (b : Byte) : (nameWrite s i b).argCnt = s.argCnt := rfl
@[simp] theorem nameWrite_sum (s : State) (i : Nat) (b : Byte) : (nameWrite s i b).sum = s.sum := rfl
@[simp] theorem nameWrite_hold (s : State) (i : Nat) (b : Byte) : (nameWrite s i b).hold = s.hold := rfl
@[simp] theorem nameWrite_odd (s : State) (i : Nat) (b : Byte) : (nameWrite s i b).odd = s.odd := rfl
@[simp] theorem nameWrite_phCtl (s : State) (i : Nat) (b : Byte) : (nameWrite s i b).phCtl = s.phCtl := rfl
@[simp] theorem nameWrite_phProto (s : State) (i : Nat) (b : Byte) : (nameWrite s i b).phProto = s.phProto := rfl
@[simp] theorem nameWrite_phLen (s : State) (i : Nat) (b : Byte) : (nameWrite s i b).phLen = s.phLen := rfl
@[simp] theorem nameWrite_phSrc0 (s : State) (i : Nat) (b : Byte) : (nameWrite s i b).phSrc0 = s.phSrc0 := rfl
@[simp] theorem nameWrite_phSrc1 (s : State) (i : Nat) (b : Byte) : (nameWrite s i b).phSrc1 = s.phSrc1 := rfl
@[simp] theorem nameWrite_phSrc2 (s : State) (i : Nat) (b : Byte) : (nameWrite s i b).phSrc2 = s.phSrc2 := rfl
@[simp] theorem nameWrite_phSrc3 (s : State) (i : Nat) (b : Byte) : (nameWrite s i b).phSrc3 = s.phSrc3 := rfl
@[simp] theorem nameWrite_phDst0 (s : State) (i : Nat) (b : Byte) : (nameWrite s i b).phDst0 = s.phDst0 := rfl
@[simp] theorem nameWrite_phDst1 (s : State) (i : Nat) (b : Byte) : (nameWrite s i b).phDst1 = s.phDst1 := rfl
@[simp] theorem nameWrite_phDst2 (s : State) (i : Nat) (b : Byte) : (nameWrite s i b).phDst2 = s.phDst2 := rfl
@[simp] theorem nameWrite_phDst3 (s : State) (i : Nat) (b : Byte) : (nameWrite s i b).phDst3 = s.phDst3 := rfl
@[simp] theorem nameWrite_crc (s : State) (i : Nat) (b : Byte) : (nameWrite s i b).crc = s.crc := rfl
@[simp] theorem nameWrite_adlA (s : State) (i : Nat) (b : Byte) : (nameWrite s i b).adlA = s.adlA := rfl
@[simp] theorem nameWrite_adlB (s : State) (i : Nat) (b : Byte) : (nameWrite s i b).adlB = s.adlB := rfl
@[simp] theorem nameWrite_dnsBase (s : State) (i : Nat) (b : Byte) : (nameWrite s i b).dnsBase = s.dnsBase := rfl
@[simp] theorem nameWrite_dnsLen (s : State) (i : Nat) (b : Byte) : (nameWrite s i b).dnsLen = s.dnsLen := rfl
@[simp] theorem nameWrite_dnsPos (s : State) (i : Nat) (b : Byte) : (nameWrite s i b).dnsPos = s.dnsPos := rfl
@[simp] theorem nameWrite_nameLen (s : State) (i : Nat) (b : Byte) : (nameWrite s i b).nameLen = s.nameLen := rfl
@[simp] theorem nameWrite_name (s : State) (i : Nat) (b : Byte) : (nameWrite s i b).name = mapPut natLt i b s.name := rfl
@[simp] theorem nameWrite_dreg (s : State) (i : Nat) (b : Byte) : (nameWrite s i b).dreg = s.dreg := rfl
@[simp] theorem nameWrite_ereg (s : State) (i : Nat) (b : Byte) : (nameWrite s i b).ereg = s.ereg := rfl
@[simp] theorem nameWrite_buf (s : State) (i : Nat) (b : Byte) : (nameWrite s i b).buf = s.buf := rfl
@[simp] theorem nameWrite_epoch (s : State) (i : Nat) (b : Byte) : (nameWrite s i b).epoch = s.epoch := rfl
@[simp] theorem nameWrite_port (s : State) (i : Nat) (b : Byte) : (nameWrite s i b).port = s.port := rfl
@[simp] theorem nameWrite_rdata (s : State) (i : Nat) (b : Byte) : (nameWrite s i b).rdata = s.rdata := rfl
@[simp] theorem nameWrite_toSurroundings (s : State) (i : Nat) (b : Byte) : (nameWrite s i b).toSurroundings = s.toSurroundings := rfl

/-! ### softReset -/

@[simp] theorem softReset_params (s : State) : (softReset s).params = s.params := rfl
@[simp] theorem softReset_fault (s : State) : (softReset s).fault = false := rfl
@[simp] theorem softReset_errCode (s : State) : (softReset s).errCode = 0#8 := rfl
@[simp] theorem softReset_errPos (s : State) : (softReset s).errPos = 0#32 := rfl
@[simp] theorem softReset_errCmd (s : State) : (softReset s).errCmd = 0#32 := rfl
@[simp] theorem softReset_argPtr (s : State) : (softReset s).argPtr = 0#32 := rfl
@[simp] theorem softReset_argCnt (s : State) : (softReset s).argCnt = 0#32 := rfl
@[simp] theorem softReset_sum (s : State) : (softReset s).sum = 0#16 := rfl
@[simp] theorem softReset_hold (s : State) : (softReset s).hold = 0#8 := rfl
@[simp] theorem softReset_odd (s : State) : (softReset s).odd = false := rfl
@[simp] theorem softReset_phCtl (s : State) : (softReset s).phCtl = 0#4 := rfl
@[simp] theorem softReset_phProto (s : State) : (softReset s).phProto = 0#8 := rfl
@[simp] theorem softReset_phLen (s : State) : (softReset s).phLen = 0#32 := rfl
@[simp] theorem softReset_phSrc0 (s : State) : (softReset s).phSrc0 = 0#32 := rfl
@[simp] theorem softReset_phSrc1 (s : State) : (softReset s).phSrc1 = 0#32 := rfl
@[simp] theorem softReset_phSrc2 (s : State) : (softReset s).phSrc2 = 0#32 := rfl
@[simp] theorem softReset_phSrc3 (s : State) : (softReset s).phSrc3 = 0#32 := rfl
@[simp] theorem softReset_phDst0 (s : State) : (softReset s).phDst0 = 0#32 := rfl
@[simp] theorem softReset_phDst1 (s : State) : (softReset s).phDst1 = 0#32 := rfl
@[simp] theorem softReset_phDst2 (s : State) : (softReset s).phDst2 = 0#32 := rfl
@[simp] theorem softReset_phDst3 (s : State) : (softReset s).phDst3 = 0#32 := rfl
@[simp] theorem softReset_crc (s : State) : (softReset s).crc = s.params.crcInit := rfl
@[simp] theorem softReset_adlA (s : State) : (softReset s).adlA = 1#16 := rfl
@[simp] theorem softReset_adlB (s : State) : (softReset s).adlB = 0#16 := rfl
@[simp] theorem softReset_dnsBase (s : State) : (softReset s).dnsBase = 0#32 := rfl
@[simp] theorem softReset_dnsLen (s : State) : (softReset s).dnsLen = 0#32 := rfl
@[simp] theorem softReset_dnsPos (s : State) : (softReset s).dnsPos = 0#32 := rfl
@[simp] theorem softReset_nameLen (s : State) : (softReset s).nameLen = 0#32 := rfl
@[simp] theorem softReset_name (s : State) : (softReset s).name = s.name := rfl
@[simp] theorem softReset_dreg (s : State) : (softReset s).dreg = [] := rfl
@[simp] theorem softReset_ereg (s : State) : (softReset s).ereg = [] := rfl
@[simp] theorem softReset_buf (s : State) : (softReset s).buf = s.buf := rfl
@[simp] theorem softReset_epoch (s : State) : (softReset s).epoch = s.epoch := rfl
@[simp] theorem softReset_port (s : State) : (softReset s).port = s.port := rfl
@[simp] theorem softReset_rdata (s : State) : (softReset s).rdata = s.rdata := rfl
@[simp] theorem softReset_toSurroundings (s : State) : (softReset s).toSurroundings = s.toSurroundings := rfl

/-! ### hardReset -/

@[simp] theorem hardReset_params (s : State) : (hardReset s).params = s.params := rfl
@[simp] theorem hardReset_fault (s : State) : (hardReset s).fault = false := rfl
@[simp] theorem hardReset_errCode (s : State) : (hardReset s).errCode = 0#8 := rfl
@[simp] theorem hardReset_errPos (s : State) : (hardReset s).errPos = 0#32 := rfl
@[simp] theorem hardReset_errCmd (s : State) : (hardReset s).errCmd = 0#32 := rfl
@[simp] theorem hardReset_argPtr (s : State) : (hardReset s).argPtr = 0#32 := rfl
@[simp] theorem hardReset_argCnt (s : State) : (hardReset s).argCnt = 0#32 := rfl
@[simp] theorem hardReset_sum (s : State) : (hardReset s).sum = 0#16 := rfl
@[simp] theorem hardReset_hold (s : State) : (hardReset s).hold = 0#8 := rfl
@[simp] theorem hardReset_odd (s : State) : (hardReset s).odd = false := rfl
@[simp] theorem hardReset_phCtl (s : State) : (hardReset s).phCtl = 0#4 := rfl
@[simp] theorem hardReset_phProto (s : State) : (hardReset s).phProto = 0#8 := rfl
@[simp] theorem hardReset_phLen (s : State) : (hardReset s).phLen = 0#32 := rfl
@[simp] theorem hardReset_phSrc0 (s : State) : (hardReset s).phSrc0 = 0#32 := rfl
@[simp] theorem hardReset_phSrc1 (s : State) : (hardReset s).phSrc1 = 0#32 := rfl
@[simp] theorem hardReset_phSrc2 (s : State) : (hardReset s).phSrc2 = 0#32 := rfl
@[simp] theorem hardReset_phSrc3 (s : State) : (hardReset s).phSrc3 = 0#32 := rfl
@[simp] theorem hardReset_phDst0 (s : State) : (hardReset s).phDst0 = 0#32 := rfl
@[simp] theorem hardReset_phDst1 (s : State) : (hardReset s).phDst1 = 0#32 := rfl
@[simp] theorem hardReset_phDst2 (s : State) : (hardReset s).phDst2 = 0#32 := rfl
@[simp] theorem hardReset_phDst3 (s : State) : (hardReset s).phDst3 = 0#32 := rfl
@[simp] theorem hardReset_crc (s : State) : (hardReset s).crc = s.params.crcInit := rfl
@[simp] theorem hardReset_adlA (s : State) : (hardReset s).adlA = 1#16 := rfl
@[simp] theorem hardReset_adlB (s : State) : (hardReset s).adlB = 0#16 := rfl
@[simp] theorem hardReset_dnsBase (s : State) : (hardReset s).dnsBase = 0#32 := rfl
@[simp] theorem hardReset_dnsLen (s : State) : (hardReset s).dnsLen = 0#32 := rfl
@[simp] theorem hardReset_dnsPos (s : State) : (hardReset s).dnsPos = 0#32 := rfl
@[simp] theorem hardReset_nameLen (s : State) : (hardReset s).nameLen = 0#32 := rfl
@[simp] theorem hardReset_name (s : State) : (hardReset s).name = [] := rfl
@[simp] theorem hardReset_dreg (s : State) : (hardReset s).dreg = [] := rfl
@[simp] theorem hardReset_ereg (s : State) : (hardReset s).ereg = [] := rfl
@[simp] theorem hardReset_buf (s : State) : (hardReset s).buf = [] := rfl
@[simp] theorem hardReset_epoch (s : State) : (hardReset s).epoch = s.epoch + 1 := rfl
@[simp] theorem hardReset_port (s : State) : (hardReset s).port = s.port := rfl
@[simp] theorem hardReset_rdata (s : State) : (hardReset s).rdata = s.rdata := rfl

end Sys2Proof.Machine
end

