-- ==== Sys2Proof/Laws/Memory.lean ====
section
/-! SUPPORT. The laws of `BUF` and `NAME`: a read after a write, frames, ranges, and the canonical form kept by every
memory operation. -/

namespace Sys2Proof.Machine

open Sys2Proof

/-! ### One byte -/

@[simp] theorem bufRead_bufWrite_same (s : State) (a : Nat) (b : Byte) : bufRead (bufWrite s a b) a = b := by
  simp [bufRead]

theorem bufRead_bufWrite_other (s : State) {a a' : Nat} (h : a' ≠ a) (b : Byte) :
    bufRead (bufWrite s a b) a' = bufRead s a' := by
  simp [bufRead, mapGet_mapPut_other natLt h]

theorem bufRead_bufWrite (s : State) (a a' : Nat) (b : Byte) :
    bufRead (bufWrite s a b) a' = if a' = a then b else bufRead s a' := by
  split
  · next h => subst h; simp
  · next h => exact bufRead_bufWrite_other s h b

@[simp] theorem nameRead_nameWrite_same (s : State) (i : Nat) (b : Byte) : nameRead (nameWrite s i b) i = b := by
  simp [nameRead]

theorem nameRead_nameWrite_other (s : State) {i i' : Nat} (h : i' ≠ i) (b : Byte) :
    nameRead (nameWrite s i b) i' = nameRead s i' := by
  simp [nameRead, mapGet_mapPut_other natLt h]

theorem nameRead_nameWrite (s : State) (i i' : Nat) (b : Byte) :
    nameRead (nameWrite s i b) i' = if i' = i then b else nameRead s i' := by
  split
  · next h => subst h; simp
  · next h => exact nameRead_nameWrite_other s h b

/-- A byte of `BUF` depends on the written bytes and the counter of hard resets only. -/
theorem bufRead_congr {s t : State} (hb : t.buf = s.buf) (he : t.epoch = s.epoch) (a : Nat) :
    bufRead t a = bufRead s a := by
  simp [bufRead, hb, he]

/-- A byte of `NAME` depends on the written bytes and the counter of hard resets only. -/
theorem nameRead_congr {s t : State} (hn : t.name = s.name) (he : t.epoch = s.epoch) (i : Nat) :
    nameRead t i = nameRead s i := by
  simp [nameRead, hn, he]

/-! ### Ranges -/

@[simp] theorem memRead_length (s : State) (a n : Nat) : (memRead s a n).length = n := by
  induction n generalizing a with
  | zero => rfl
  | succ n ih => simp [memRead, ih]

@[simp] theorem nameSlice_length (s : State) (i n : Nat) : (nameSlice s i n).length = n := by
  induction n generalizing i with
  | zero => rfl
  | succ n ih => simp [nameSlice, ih]

theorem memRead_getElem (s : State) (a n k : Nat) (h : k < (memRead s a n).length) :
    (memRead s a n)[k] = bufRead s (a + k) := by
  induction n generalizing a k with
  | zero => simp [memRead] at h
  | succ n ih =>
    cases k with
    | zero => simp [memRead]
    | succ k => simp only [memRead, List.getElem_cons_succ]; rw [ih]; congr 1; omega

theorem nameSlice_getElem (s : State) (i n k : Nat) (h : k < (nameSlice s i n).length) :
    (nameSlice s i n)[k] = nameRead s (i + k) := by
  induction n generalizing i k with
  | zero => simp [nameSlice] at h
  | succ n ih =>
    cases k with
    | zero => simp [nameSlice]
    | succ k => simp only [nameSlice, List.getElem_cons_succ]; rw [ih]; congr 1; omega

/-- A range read in two pieces. -/
theorem memRead_add (s : State) (a n m : Nat) : memRead s a (n + m) = memRead s a n ++ memRead s (a + n) m := by
  induction n generalizing a with
  | zero => simp [memRead]
  | succ n ih =>
    rw [Nat.succ_add]
    simp only [memRead, ih, List.cons_append]
    congr 3
    omega

theorem nameSlice_add (s : State) (i n m : Nat) : nameSlice s i (n + m) = nameSlice s i n ++ nameSlice s (i + n) m := by
  induction n generalizing i with
  | zero => simp [nameSlice]
  | succ n ih =>
    rw [Nat.succ_add]
    simp only [nameSlice, ih, List.cons_append]
    congr 3
    omega

/-- A range reads the same in two states whose bytes agree on it. -/
theorem memRead_congr {s t : State} {a n : Nat} (h : ∀ k < n, bufRead t (a + k) = bufRead s (a + k)) :
    memRead t a n = memRead s a n := by
  induction n generalizing a with
  | zero => rfl
  | succ n ih =>
    simp only [memRead]
    have h0 := h 0 (by omega)
    simp only [Nat.add_zero] at h0
    rw [h0, ih fun k hk => ?_]
    have := h (k + 1) (by omega)
    rwa [show a + 1 + k = a + (k + 1) by omega]

theorem nameSlice_congr {s t : State} {i n : Nat} (h : ∀ k < n, nameRead t (i + k) = nameRead s (i + k)) :
    nameSlice t i n = nameSlice s i n := by
  induction n generalizing i with
  | zero => rfl
  | succ n ih =>
    simp only [nameSlice]
    have h0 := h 0 (by omega)
    simp only [Nat.add_zero] at h0
    rw [h0, ih fun k hk => ?_]
    have := h (k + 1) (by omega)
    rwa [show i + 1 + k = i + (k + 1) by omega]

/-! ### `MemWrite` -/

/-- `MemWrite` changes `BUF` and nothing else. -/
theorem memWrite_eq (s : State) (a : Nat) (v : List Byte) : memWrite s a v = { s with buf := (memWrite s a v).buf } := by
  induction v generalizing s a with
  | nil => rfl
  | cons b v ih => simp only [memWrite]; rw [ih]; rfl

/-- What a byte reads as after `MemWrite`: the stored byte inside the range, the old one outside. -/
theorem bufRead_memWrite (s : State) (a : Nat) (v : List Byte) (x : Nat) :
    bufRead (memWrite s a v) x = if a ≤ x ∧ x < a + v.length then v.getD (x - a) 0#8 else bufRead s x := by
  induction v generalizing s a with
  | nil => simp [memWrite]
  | cons b v ih =>
    simp only [memWrite, ih, bufRead_bufWrite, List.length_cons]
    by_cases h1 : a + 1 ≤ x ∧ x < a + 1 + v.length
    · rw [if_pos h1, if_pos (by omega)]
      obtain ⟨k, rfl⟩ : ∃ k, x = a + 1 + k := ⟨x - (a + 1), by omega⟩
      simp [show a + 1 + k - a = k + 1 by omega, show a + 1 + k - (a + 1) = k by omega]
    · rw [if_neg h1]
      by_cases h2 : x = a
      · subst h2; simp
      · rw [if_neg h2, if_neg (by omega)]

/-- Outside the stored bytes every address reads as before. -/
theorem bufRead_memWrite_other (s : State) {a x : Nat} {v : List Byte} (h : x < a ∨ a + v.length ≤ x) :
    bufRead (memWrite s a v) x = bufRead s x := by
  rw [bufRead_memWrite, if_neg (by omega)]

/-! ### The canonical form -/

theorem wf_nil (size : Nat) : Memory.wf size [] := by simp [Memory.wf, mapSorted]

/-- A write below the size keeps the canonical form. -/
theorem wf_mapPut {size : Nat} {m : List Host.Cell} (h : Memory.wf size m) {a : Nat} (ha : a < size) (b : Byte) :
    Memory.wf size (mapPut natLt a b m) := by
  refine ⟨mapPut_sorted natLt_order h.1, fun c hc => ?_⟩
  rcases mem_of_mem_mapPut hc with hc | hc
  · subst hc; exact ha
  · exact h.2 c hc

theorem bufWrite_wf {s : State} {size : Nat} (h : Memory.wf size s.buf) {a : Nat} (ha : a < size) (b : Byte) :
    Memory.wf size (bufWrite s a b).buf := wf_mapPut h ha b

theorem nameWrite_wf {s : State} {size : Nat} (h : Memory.wf size s.name) {i : Nat} (hi : i < size) (b : Byte) :
    Memory.wf size (nameWrite s i b).name := wf_mapPut h hi b

theorem memWrite_wf {s : State} {size : Nat} (h : Memory.wf size s.buf) {a : Nat} {v : List Byte}
    (ha : a + v.length ≤ size) : Memory.wf size (memWrite s a v).buf := by
  induction v generalizing s a with
  | nil => exact h
  | cons b v ih =>
    simp only [List.length_cons] at ha
    exact ih (bufWrite_wf h (by omega) b) (by omega)

theorem reset_buf_wf (p : Params) : Memory.wf p.bufSize (State.resetWith p).buf := wf_nil _

theorem reset_name_wf (p : Params) : Memory.wf p.nameMax (State.resetWith p).name := wf_nil _

theorem softReset_buf_wf {s : State} (h : Memory.wf s.params.bufSize s.buf) :
    Memory.wf (softReset s).params.bufSize (softReset s).buf := h

theorem softReset_name_wf {s : State} (h : Memory.wf s.params.nameMax s.name) :
    Memory.wf (softReset s).params.nameMax (softReset s).name := h

theorem hardReset_buf_wf (s : State) : Memory.wf (hardReset s).params.bufSize (hardReset s).buf := wf_nil _

theorem hardReset_name_wf (s : State) : Memory.wf (hardReset s).params.nameMax (hardReset s).name := wf_nil _

end Sys2Proof.Machine
end

