-- ==== Sys2Proof/Laws/Ops.lean ====
section
/-! SUPPORT. One lemma per shared operation that says once everything it can do: sequencing, taking a fault, the end of a
command, the operands, and the byte operations of the DNS unit. -/

namespace Sys2Proof.Machine

open Sys2Proof

/-! ### Sequencing -/

section

variable {α β : Type}

@[simp] theorem bind_ok (a : α) (s : State) (f : α → State → Res β) : (Res.ok a s).bind f = f a s := rfl

@[simp] theorem bind_raise (c : ErrCode) (pos : Word) (s : State) (f : α → State → Res β) :
    (Res.raise c pos s).bind f = .raise c pos s := rfl

/-- A sequence ends normally only when both pieces do. -/
theorem bind_eq_ok {r : Res α} {f : α → State → Res β} {b : β} {t : State} (h : r.bind f = .ok b t) :
    ∃ a s, r = .ok a s ∧ f a s = .ok b t := by
  cases r with
  | ok a s => exact ⟨a, s, rfl, h⟩
  | raise c pos s => cases h

/-- A sequence raises what its first piece raises, or what its second piece raises after the first ended normally. -/
theorem bind_eq_raise {r : Res α} {f : α → State → Res β} {c : ErrCode} {pos : Word} {t : State}
    (h : r.bind f = .raise c pos t) : r = .raise c pos t ∨ ∃ a s, r = .ok a s ∧ f a s = .raise c pos t := by
  cases r with
  | ok a s => exact .inr ⟨a, s, rfl, h⟩
  | raise c' pos' s =>
    rw [bind_raise] at h
    injection h with h1 h2 h3
    subst h1 h2 h3
    exact .inl rfl

/-- The state that a piece of pseudocode leaves, however it ends. -/
def Res.state {α : Type} : Res α → State
  | .ok _ s => s
  | .raise _ _ s => s

@[simp] theorem state_ok (a : α) (s : State) : (Res.ok a s).state = s := rfl

@[simp] theorem state_raise (c : ErrCode) (pos : Word) (s : State) : (Res.raise c pos s : Res α).state = s := rfl

/-- A property that every piece keeps is kept by the sequence: the induction of all frame lemmas. -/
theorem bind_keeps {P : State → Prop} {r : Res α} {f : α → State → Res β} (hr : P r.state)
    (hf : ∀ a s, r = .ok a s → P s → P (f a s).state) : P (r.bind f).state := by
  cases r with
  | ok a s => exact hf a s rfl hr
  | raise c pos s => exact hr

end

/-! ### Faults -/

theorem takeFault_of_fault {s : State} (h : s.fault = true) (c : ErrCode) (pos cmd : Word) : takeFault s c pos cmd = s := by
  simp [takeFault, h]

theorem takeFault_of_running {s : State} (h : s.fault = false) (c : ErrCode) (pos cmd : Word) :
    takeFault s c pos cmd = s.recordFault (errCodeByte c) pos cmd := by
  simp [takeFault, h]

/-- Everything that taking a fault can do: nothing while one stands, otherwise the four fault registers. -/
theorem takeFault_cases (s : State) (c : ErrCode) (pos cmd : Word) :
    (s.fault = true ∧ takeFault s c pos cmd = s) ∨
    (s.fault = false ∧ takeFault s c pos cmd = s.recordFault (errCodeByte c) pos cmd) := by
  cases h : s.fault
  · exact .inr ⟨rfl, takeFault_of_running h c pos cmd⟩
  · exact .inl ⟨rfl, takeFault_of_fault h c pos cmd⟩

@[simp] theorem takeFault_fault (s : State) (c : ErrCode) (pos cmd : Word) : (takeFault s c pos cmd).fault = true := by
  rcases takeFault_cases s c pos cmd with ⟨h, e⟩ | ⟨_, e⟩ <;> rw [e]
  · exact h
  · rfl

/-- Taking a fault changes the four fault registers at most. -/
theorem takeFault_eq (s : State) (c : ErrCode) (pos cmd : Word) :
    takeFault s c pos cmd = { s with
      fault := true, errCode := (takeFault s c pos cmd).errCode, errPos := (takeFault s c pos cmd).errPos,
      errCmd := (takeFault s c pos cmd).errCmd } := by
  rcases takeFault_cases s c pos cmd with ⟨h, e⟩ | ⟨_, e⟩ <;> rw [e]
  · rw [← h]
  · rfl

@[simp] theorem takeFault_buf (s : State) (c : ErrCode) (pos cmd : Word) : (takeFault s c pos cmd).buf = s.buf := by
  rw [takeFault_eq]

@[simp] theorem takeFault_name (s : State) (c : ErrCode) (pos cmd : Word) : (takeFault s c pos cmd).name = s.name := by
  rw [takeFault_eq]

@[simp] theorem takeFault_dreg (s : State) (c : ErrCode) (pos cmd : Word) : (takeFault s c pos cmd).dreg = s.dreg := by
  rw [takeFault_eq]

@[simp] theorem takeFault_ereg (s : State) (c : ErrCode) (pos cmd : Word) : (takeFault s c pos cmd).ereg = s.ereg := by
  rw [takeFault_eq]

@[simp] theorem takeFault_params (s : State) (c : ErrCode) (pos cmd : Word) :
    (takeFault s c pos cmd).params = s.params := by
  rw [takeFault_eq]

@[simp] theorem finish_ok (w : Word) (s : State) : finish w (.ok () s) = .next s := rfl

@[simp] theorem finish_raise (w : Word) (c : ErrCode) (pos : Word) (s : State) :
    finish w (.raise c pos s) = .next (takeFault s c pos w) := rfl

/-- The end of a command is always a next state: the state the pseudocode left, with its fault taken if it raised one. -/
theorem finish_cases (w : Word) (r : Res Unit) :
    (∃ s, r = .ok () s ∧ finish w r = .next s) ∨
    (∃ c pos s, r = .raise c pos s ∧ finish w r = .next (takeFault s c pos w)) := by
  cases r with
  | ok a s => exact .inl ⟨s, rfl, rfl⟩
  | raise c pos s => exact .inr ⟨c, pos, s, rfl, rfl⟩

/-! ### Operands -/

theorem rangeOperand_cases (s : State) :
    (rangeOperand s = .ok (rangeBytes s) s ∧ s.argPtr.toNat + s.argCnt.toNat ≤ s.params.bufSize) ∨
    (rangeOperand s = .raise .bounds s.argPtr s ∧ s.params.bufSize < s.argPtr.toNat + s.argCnt.toNat) := by
  unfold rangeOperand rangeFits
  by_cases h : s.argPtr.toNat + s.argCnt.toNat ≤ s.params.bufSize
  · left; simp [h]
  · right; simp [h]; omega

theorem dnsWindow_cases (s : State) :
    (dnsWindow s = .ok () s ∧ s.dnsBase.toNat + s.dnsLen.toNat ≤ s.params.bufSize) ∨
    (dnsWindow s = .raise .bounds s.dnsBase s ∧ s.params.bufSize < s.dnsBase.toNat + s.dnsLen.toNat) := by
  unfold dnsWindow
  by_cases h : s.dnsBase.toNat + s.dnsLen.toNat ≤ s.params.bufSize
  · left; simp [h]
  · right; simp [h]; omega

/-- Everything `DnsRd8` can do (43_dns_name.md R193). -/
theorem dnsRd8_cases (s : State) :
    (dnsRd8 s = .ok (bufRead s (dnsAddr s)) (s.setDnsPos (s.dnsPos + 1#32)) ∧ s.dnsPos.toNat < s.dnsLen.toNat) ∨
    (dnsRd8 s = .raise .dnsUnderrun s.dnsPos s ∧ s.dnsLen.toNat ≤ s.dnsPos.toNat) := by
  unfold dnsRd8
  by_cases h : s.dnsPos.toNat < s.dnsLen.toNat
  · left; simp [h]
  · right; simp [h]; omega

/-- Everything `DnsWr8` can do (43_dns_name.md R193). -/
theorem dnsWr8_cases (b : Byte) (s : State) :
    (dnsWr8 b s = .ok () ((bufWrite s (dnsAddr s) b).setDnsPos (s.dnsPos + 1#32)) ∧ s.dnsPos.toNat < s.dnsLen.toNat) ∨
    (dnsWr8 b s = .raise .dnsOverrun s.dnsPos s ∧ s.dnsLen.toNat ≤ s.dnsPos.toNat) := by
  unfold dnsWr8
  by_cases h : s.dnsPos.toNat < s.dnsLen.toNat
  · left; simp [h]
  · right; simp [h]; omega

/-- Everything `NameAppend` can do (43_dns_name.md R194). -/
theorem nameAppend_cases (c : Byte) (s : State) :
    (nameAppend c s = .ok () ((nameWrite s s.nameLen.toNat c).setNameLen (s.nameLen + 1#32)) ∧
      s.nameLen.toNat < s.params.nameMax) ∨
    (nameAppend c s = .raise .dnsNameOvf s.dnsPos s ∧ s.params.nameMax ≤ s.nameLen.toNat) := by
  unfold nameAppend
  by_cases h : s.nameLen.toNat < s.params.nameMax
  · left; simp [h]
  · right; simp [h]; omega

/-- The position after a byte has been read or written does not wrap (43_dns_name.md R193). -/
theorem dnsPos_succ_toNat {s : State} (h : s.dnsPos.toNat < s.dnsLen.toNat) :
    (s.dnsPos + 1#32).toNat = s.dnsPos.toNat + 1 := by
  have := s.dnsLen.isLt
  simp only [BitVec.toNat_add, BitVec.toNat_ofNat]
  omega

/-! ### The two registers of each checksum unit -/

@[simp] theorem withIcs_ics (s : State) (u : IcsAcc) : (s.withIcs u).ics = u := rfl

@[simp] theorem withAdl_adl (s : State) (u : AdlAcc) : (s.withAdl u).adl = u := rfl

theorem withIcs_eq (s : State) (u : IcsAcc) : s.withIcs u = { s with sum := u.sum, hold := u.hold, odd := u.odd } := rfl

theorem withAdl_eq (s : State) (u : AdlAcc) : s.withAdl u = { s with adlA := u.a, adlB := u.b } := rfl

@[simp] theorem icsAbsorbAll_append (u : IcsAcc) (a b : List Byte) :
    icsAbsorbAll u (a ++ b) = icsAbsorbAll (icsAbsorbAll u a) b := List.foldl_append

@[simp] theorem crcAbsorbAll_append (c : Word) (a b : List Byte) :
    crcAbsorbAll c (a ++ b) = crcAbsorbAll (crcAbsorbAll c a) b := List.foldl_append

@[simp] theorem adlAbsorbAll_append (u : AdlAcc) (a b : List Byte) :
    adlAbsorbAll u (a ++ b) = adlAbsorbAll (adlAbsorbAll u a) b := List.foldl_append

end Sys2Proof.Machine
end

