-- ==== Sys2Proof/Laws/Dns.lean ====
section
/-! SUPPORT. The frames of the DNS unit: what each piece of `DNS.DEC` and of `DNS.ENC` can change, said once for each and
assembled for the two commands. -/

namespace Sys2Proof.Machine

open Sys2Proof

/-- `t` differs from `s` in what `DNS.DEC` may change before it registers anything: `DNS_POS`, `NAME` and `NAME_LEN`. -/
def DecFrame (s t : State) : Prop :=
  t = { s with dnsPos := t.dnsPos, name := t.name, nameLen := t.nameLen }

/-- `t` differs from `s` in what `DNS.ENC` may change: `DNS_POS`, `BUF` and `EREG`. -/
def EncFrame (s t : State) : Prop :=
  t = { s with dnsPos := t.dnsPos, buf := t.buf, ereg := t.ereg }

theorem DecFrame.refl (s : State) : DecFrame s s := rfl

theorem EncFrame.refl (s : State) : EncFrame s s := rfl

theorem DecFrame.trans {s t u : State} (h : DecFrame s t) (h' : DecFrame t u) : DecFrame s u := by
  unfold DecFrame at *
  rw [h] at h'
  exact h'

theorem EncFrame.trans {s t u : State} (h : EncFrame s t) (h' : EncFrame t u) : EncFrame s u := by
  unfold EncFrame at *
  rw [h] at h'
  exact h'

/-! ### Decode -/

theorem dnsRd8_frame (s : State) : DecFrame s (dnsRd8 s).state := by
  rcases dnsRd8_cases s with ⟨h, _⟩ | ⟨h, _⟩ <;> rw [h] <;> rfl

theorem nameAppend_frame (c : Byte) (s : State) : DecFrame s (nameAppend c s).state := by
  rcases nameAppend_cases c s with ⟨h, _⟩ | ⟨h, _⟩ <;> rw [h] <;> rfl

theorem nameSeparator_frame (s : State) : DecFrame s (nameSeparator s).state := by
  unfold nameSeparator
  split
  · rfl
  · exact nameAppend_frame _ _

theorem nameAppendAll_frame (cs : List Byte) (s : State) : DecFrame s (nameAppendAll cs s).state := by
  induction cs generalizing s with
  | nil => rfl
  | cons c cs ih => exact bind_keeps (nameAppend_frame c s) fun _ t _ ht => ht.trans (ih t)

theorem decLabel_frame (n : Nat) (s : State) : DecFrame s (decLabel n s).state := by
  induction n generalizing s with
  | zero => rfl
  | succ n ih =>
    refine bind_keeps (dnsRd8_frame s) fun c t _ ht => ?_
    exact bind_keeps (ht.trans (nameAppend_frame c t)) fun _ u _ hu => hu.trans (ih u)

theorem decPointer_frame (p0 : Byte) (s : State) : DecFrame s (decPointer p0 s).state := by
  refine bind_keeps (dnsRd8_frame s) fun p1 t _ ht => ?_
  split
  · exact ht
  · exact bind_keeps (ht.trans (nameSeparator_frame t)) fun _ u _ hu => hu.trans (nameAppendAll_frame _ u)

theorem decItems_frame (fuel : Nat) (k : List (Word × Nat)) (s : State) : DecFrame s (decItems fuel k s).state := by
  induction fuel generalizing k s with
  | zero => rfl
  | succ fuel ih =>
    refine bind_keeps (dnsRd8_frame s) fun len t _ ht => ?_
    split
    · exact ht
    split
    · exact bind_keeps (ht.trans (decPointer_frame len t)) fun _ u _ hu => hu
    split
    · exact ht
    refine bind_keeps (ht.trans (nameSeparator_frame t)) fun _ u _ hu => ?_
    exact bind_keeps (hu.trans (decLabel_frame _ u)) fun _ v _ hv => hv.trans (ih _ v)

theorem decRegister_frame (k : List (Word × Nat)) (s : State) :
    (decRegister k s).state = { s with dreg := (decRegister k s).state.dreg } := by
  induction k generalizing s with
  | nil => rfl
  | cons e k ih =>
    obtain ⟨start, idx⟩ := e
    simp only [decRegister]
    split
    · rfl
    · rw [ih]; rfl

/-- `DNS.DEC` changes `DNS_POS`, `NAME`, `NAME_LEN` and `DREG` at most, before any fault is taken. -/
theorem dnsDecode_frame (s : State) :
    (dnsDecode s).state =
      { s with dnsPos := (dnsDecode s).state.dnsPos, name := (dnsDecode s).state.name,
               nameLen := (dnsDecode s).state.nameLen, dreg := (dnsDecode s).state.dreg } := by
  refine bind_keeps (P := fun t => t = { s with dnsPos := t.dnsPos, name := t.name, nameLen := t.nameLen, dreg := t.dreg })
    ?_ fun _ t ht _ => ?_
  · rcases dnsWindow_cases s with ⟨h, _⟩ | ⟨h, _⟩ <;> rw [h] <;> rfl
  · obtain rfl : t = s := by
      rcases dnsWindow_cases s with ⟨h, _⟩ | ⟨h, _⟩ <;> rw [h] at ht <;> simp at ht
      exact ht.symm
    have h0 := decItems_frame (t.dnsLen.toNat - t.dnsPos.toNat) [] (t.setNameLen 0#32)
    refine bind_keeps
      (P := fun u => u = { t with dnsPos := u.dnsPos, name := u.name, nameLen := u.nameLen, dreg := u.dreg }) ?_
      fun k u _ hu => ?_
    · rw [h0]; rfl
    · rw [decRegister_frame, hu]

/-! ### Encode -/

theorem dnsWr8_frame (b : Byte) (s : State) : EncFrame s (dnsWr8 b s).state := by
  rcases dnsWr8_cases b s with ⟨h, _⟩ | ⟨h, _⟩ <;> rw [h] <;> rfl

theorem dnsWrAll_frame (bs : List Byte) (s : State) : EncFrame s (dnsWrAll bs s).state := by
  induction bs generalizing s with
  | nil => rfl
  | cons b bs ih => exact bind_keeps (dnsWr8_frame b s) fun _ t _ ht => ht.trans (ih t)

/-- Everything the head of an encode turn can do (43_dns_name.md R201). -/
theorem encLookup_cases (nc : Bool) (rem : List Byte) (s : State) :
    (nc = true ∧ encLookup nc rem s = .ok none s) ∨
    (nc = false ∧ ∃ off, mapGet rem s.ereg = some off ∧ encLookup nc rem s = .ok (some off) s) ∨
    (nc = false ∧ mapGet rem s.ereg = none ∧ s.params.regCap ≠ some s.ereg.length ∧
      encLookup nc rem s = .ok none (s.setEreg (mapPut nameLt rem s.dnsPos s.ereg))) ∨
    (nc = false ∧ mapGet rem s.ereg = none ∧ s.params.regCap = some s.ereg.length ∧
      encLookup nc rem s = .raise .dnsRegFull s.dnsPos s) := by
  cases nc with
  | true => exact .inl ⟨rfl, rfl⟩
  | false =>
    refine .inr ?_
    unfold encLookup
    cases h : mapGet rem s.ereg with
    | some off => exact .inl ⟨rfl, off, rfl, by simp⟩
    | none =>
      refine .inr ?_
      rcases regPut_cases s.params.regCap nameLt s.ereg rem s.dnsPos with ⟨hp, hr⟩ | ⟨hp, _, hc⟩
      · refine .inl ⟨rfl, rfl, ?_, by simp [hp]⟩
        simpa [h] using hr
      · exact .inr ⟨rfl, rfl, hc, by simp [hp]⟩

theorem encLookup_frame (nc : Bool) (rem : List Byte) (s : State) : EncFrame s (encLookup nc rem s).state := by
  rcases encLookup_cases nc rem s with ⟨_, h⟩ | ⟨_, _, _, h⟩ | ⟨_, _, _, h⟩ | ⟨_, _, _, h⟩ <;> rw [h] <;> rfl

theorem encPointer_frame (off : Word) (s : State) : EncFrame s (encPointer off s).state := by
  unfold encPointer
  split
  · rfl
  · exact dnsWrAll_frame _ _

theorem encLabel_frame (label : List Byte) (s : State) : EncFrame s (encLabel label s).state := by
  unfold encLabel
  split
  · rfl
  split
  · rfl
  exact bind_keeps (dnsWr8_frame _ s) fun _ t _ ht => ht.trans (dnsWrAll_frame _ t)

theorem encSuffix_frame (nc : Bool) (fuel : Nat) (rem : List Byte) (s : State) :
    EncFrame s (encSuffix nc fuel rem s).state := by
  induction fuel generalizing rem s with
  | zero => rfl
  | succ fuel ih =>
    refine bind_keeps (encLookup_frame nc rem s) fun found t _ ht => ?_
    split
    · exact ht.trans (encPointer_frame _ t)
    · refine bind_keeps (ht.trans (encLabel_frame _ t)) fun _ u _ hu => ?_
      split
      · exact hu.trans (dnsWr8_frame _ u)
      · exact hu
      · exact hu.trans (ih _ u)

/-- `DNS.ENC` changes `DNS_POS`, `BUF` and `EREG` at most, before any fault is taken. -/
theorem dnsEncode_frame (nc : Bool) (s : State) : EncFrame s (dnsEncode nc s).state := by
  refine bind_keeps ?_ fun _ t _ ht => ?_
  · rcases dnsWindow_cases s with ⟨h, _⟩ | ⟨h, _⟩ <;> rw [h] <;> rfl
  · split
    · exact ht
    split
    · exact ht.trans (dnsWr8_frame _ t)
    · exact ht.trans (encSuffix_frame _ _ _ t)

end Sys2Proof.Machine
end

