-- ==== Sys2Proof/Laws/PerInstr.lean ====
section
/-! SUPPORT. The statements made per instruction, one lemma per constructor of `Instr`. -/

namespace Sys2Proof.Laws

open Sys2Proof

/-! ### The word of every command is in the row of the opcode map that bears its mnemonic (30_encoding.md R92) -/

def EncodeInTable.Statement (i : Instr) : Prop :=
  ∃ r ∈ commandRows, r.mnemonic = i.mnemonic ∧ encode i &&& r.mask = r.pattern

theorem EncodeInTable.nop : EncodeInTable.Statement .nop := by
  unfold EncodeInTable.Statement; decide
theorem EncodeInTable.sysReset : EncodeInTable.Statement .sysReset := by
  unfold EncodeInTable.Statement; decide
theorem EncodeInTable.icsInit : EncodeInTable.Statement .icsInit := by
  unfold EncodeInTable.Statement; decide
theorem EncodeInTable.icsAdd : EncodeInTable.Statement .icsAdd := by
  unfold EncodeInTable.Statement; decide
theorem EncodeInTable.icsAddb (imm8 : Byte) : EncodeInTable.Statement (.icsAddb imm8) := by
  unfold EncodeInTable.Statement; revert imm8; decide
theorem EncodeInTable.icsPh : EncodeInTable.Statement .icsPh := by
  unfold EncodeInTable.Statement; decide
theorem EncodeInTable.icsPut : EncodeInTable.Statement .icsPut := by
  unfold EncodeInTable.Statement; decide
theorem EncodeInTable.crcInit : EncodeInTable.Statement .crcInit := by
  unfold EncodeInTable.Statement; decide
theorem EncodeInTable.crcAdd : EncodeInTable.Statement .crcAdd := by
  unfold EncodeInTable.Statement; decide
theorem EncodeInTable.crcAddb (imm8 : Byte) : EncodeInTable.Statement (.crcAddb imm8) := by
  unfold EncodeInTable.Statement; revert imm8; decide
theorem EncodeInTable.adlInit : EncodeInTable.Statement .adlInit := by
  unfold EncodeInTable.Statement; decide
theorem EncodeInTable.adlAdd : EncodeInTable.Statement .adlAdd := by
  unfold EncodeInTable.Statement; decide
theorem EncodeInTable.adlAddb (imm8 : Byte) : EncodeInTable.Statement (.adlAddb imm8) := by
  unfold EncodeInTable.Statement; revert imm8; decide
theorem EncodeInTable.dnsClr : EncodeInTable.Statement .dnsClr := by
  unfold EncodeInTable.Statement; decide
theorem EncodeInTable.dnsDec : EncodeInTable.Statement .dnsDec := by
  unfold EncodeInTable.Statement; decide
theorem EncodeInTable.dnsEnc (nc : Bool) : EncodeInTable.Statement (.dnsEnc nc) := by
  unfold EncodeInTable.Statement; revert nc; decide

/-! ### The fields of every command's word pass the check of Sys2Proof/WellFormed.lean (30_encoding.md R96, R97) -/

def FieldsLegal.Statement (i : Instr) : Prop := (fieldsOf (encode i)).wf = true

theorem FieldsLegal.nop : FieldsLegal.Statement .nop := by unfold FieldsLegal.Statement; decide
theorem FieldsLegal.sysReset : FieldsLegal.Statement .sysReset := by unfold FieldsLegal.Statement; decide
theorem FieldsLegal.icsInit : FieldsLegal.Statement .icsInit := by unfold FieldsLegal.Statement; decide
theorem FieldsLegal.icsAdd : FieldsLegal.Statement .icsAdd := by unfold FieldsLegal.Statement; decide
theorem FieldsLegal.icsAddb (imm8 : Byte) : FieldsLegal.Statement (.icsAddb imm8) := by
  unfold FieldsLegal.Statement; revert imm8; decide
theorem FieldsLegal.icsPh : FieldsLegal.Statement .icsPh := by unfold FieldsLegal.Statement; decide
theorem FieldsLegal.icsPut : FieldsLegal.Statement .icsPut := by unfold FieldsLegal.Statement; decide
theorem FieldsLegal.crcInit : FieldsLegal.Statement .crcInit := by unfold FieldsLegal.Statement; decide
theorem FieldsLegal.crcAdd : FieldsLegal.Statement .crcAdd := by unfold FieldsLegal.Statement; decide
theorem FieldsLegal.crcAddb (imm8 : Byte) : FieldsLegal.Statement (.crcAddb imm8) := by
  unfold FieldsLegal.Statement; revert imm8; decide
theorem FieldsLegal.adlInit : FieldsLegal.Statement .adlInit := by unfold FieldsLegal.Statement; decide
theorem FieldsLegal.adlAdd : FieldsLegal.Statement .adlAdd := by unfold FieldsLegal.Statement; decide
theorem FieldsLegal.adlAddb (imm8 : Byte) : FieldsLegal.Statement (.adlAddb imm8) := by
  unfold FieldsLegal.Statement; revert imm8; decide
theorem FieldsLegal.dnsClr : FieldsLegal.Statement .dnsClr := by unfold FieldsLegal.Statement; decide
theorem FieldsLegal.dnsDec : FieldsLegal.Statement .dnsDec := by unfold FieldsLegal.Statement; decide
theorem FieldsLegal.dnsEnc (nc : Bool) : FieldsLegal.Statement (.dnsEnc nc) := by
  unfold FieldsLegal.Statement; revert nc; decide

end Sys2Proof.Laws
end

