-- ==== Sys2Proof/Machine/Assembler.lean ====
section
/-! DEFINITION. The notation of 30_encoding.md R100 and R101: each line and each pseudo-instruction as the host
transactions that it stands for. -/

namespace Sys2Proof.Machine

open Sys2Proof

/-- The host address of a register: its offset in 10_state.md R52. -/
def regAddr (r : Reg) : Word :=
  match registerMap.find? fun e => e.2.1 = r with
  | some e => BitVec.ofNat 32 e.1
  | none => 0#32

/-- `WR <reg>, <value>` (R100). -/
def asmWr (r : Reg) (v : Word) : HostEvent := .write 32 (regAddr r) v

/-- `RD <reg>` (R100). -/
def asmRd (r : Reg) : HostEvent := .read 32 (regAddr r)

/-- `WRB BUF+<a>, <byte>` (R100). -/
def asmWrbBuf (a : Nat) (b : Byte) : HostEvent := .write 8 (0x80000000#32 + BitVec.ofNat 32 a) (b.setWidth 32)

/-- `RDB BUF+<a>` (R100). -/
def asmRdbBuf (a : Nat) : HostEvent := .read 8 (0x80000000#32 + BitVec.ofNat 32 a)

/-- `WRB NAME+<i>, <byte>` (R100). -/
def asmWrbName (i : Nat) (b : Byte) : HostEvent := .write 8 (0x1000#32 + BitVec.ofNat 32 i) (b.setWidth 32)

/-- `RDB NAME+<i>` (R100). -/
def asmRdbName (i : Nat) : HostEvent := .read 8 (0x1000#32 + BitVec.ofNat 32 i)

/-- `<mnemonic>` with its operand: `WR CMD, <word>` (R100). -/
def asmCommand (i : Instr) : HostEvent := asmWr .cmd (encode i)

/-- `FILL BUF+<a>, <bytes>` (R101). -/
def asmFill (a : Nat) : List Byte → List HostEvent
  | [] => []
  | b :: bs => asmWrbBuf a b :: asmFill (a + 1) bs

/-- The byte writes of `SETNAME`, from `NAME[i]` on. -/
def asmNameBytes (i : Nat) : List Byte → List HostEvent
  | [] => []
  | b :: bs => asmWrbName i b :: asmNameBytes (i + 1) bs

/-- `SETNAME "<text>"`, the text given as its character codes (R101; 00_scope.md R11). -/
def asmSetName (text : List Byte) : List HostEvent :=
  asmNameBytes 0 text ++ [asmWr .nameLen (BitVec.ofNat 32 text.length)]

/-- `RANGE <a>, <n>` (R101). -/
def asmRange (a n : Word) : List HostEvent := [asmWr .argPtr a, asmWr .argCnt n]

/-- `SRC4 a.b.c.d` (R101). -/
def asmSrc4 (a b c d : Byte) : List HostEvent := [asmWr .phSrc0 (((a ++ b) ++ c) ++ d)]

/-- `DST4 a.b.c.d` (R101). -/
def asmDst4 (a b c d : Byte) : List HostEvent := [asmWr .phDst0 (((a ++ b) ++ c) ++ d)]

/-- `SRC6 w0 w1 w2 w3` (R101). -/
def asmSrc6 (w0 w1 w2 w3 : Word) : List HostEvent :=
  [asmWr .phSrc0 w0, asmWr .phSrc1 w1, asmWr .phSrc2 w2, asmWr .phSrc3 w3]

/-- `DST6 w0 w1 w2 w3` (R101). -/
def asmDst6 (w0 w1 w2 w3 : Word) : List HostEvent :=
  [asmWr .phDst0 w0, asmWr .phDst1 w1, asmWr .phDst2 w2, asmWr .phDst3 w3]

end Sys2Proof.Machine
end

