-- ==== Sys2Proof/Tests/Slice0.lean ====
section
/-! SUPPORT. The model's own tests: the checks of Sys2Proof/WellFormed.lean refuse an ill-formed term, every command's word
decodes, each command does on one small state what the worked values of the spec say, and every hypothesis of a statement is
met by some concrete state. -/

namespace Sys2Proof.Tests

open Sys2Proof Sys2Proof.Machine Sys2Proof.Safety Sys2Proof.Claims

/-! ### The checks of WellFormed, each refusing an ill-formed term (00_scope.md R5; 30_encoding.md R91, R96, R97) -/

/-- A small machine's parameters. -/
def small : Params :=
  { bufSize := 64, nameMax := 16, regCap := some 2, crcInit := 0xFFFFFFFF#32, crcXorout := 0xFFFFFFFF#32 }

theorem test_params_small : small.wf = true := by decide
theorem test_params_example : Config.exampleParams.wf = true := by decide
theorem test_params_largest :
    Params.wf { small with bufSize := 2147483648, nameMax := 4096, regCap := none } = true := by decide
theorem test_params_no_buffer : Params.wf { small with bufSize := 0 } = false := by decide
theorem test_params_buffer_too_large : Params.wf { small with bufSize := 2147483649 } = false := by decide
theorem test_params_no_name : Params.wf { small with nameMax := 0 } = false := by decide
theorem test_params_name_too_large : Params.wf { small with nameMax := 4097 } = false := by decide
theorem test_params_no_registry : Params.wf { small with regCap := some 0 } = false := by decide
theorem test_fields_good : Fields.wf { opc := 0x12#8, reserved := 0#15, nc := false, imm8 := 0xF2#8 } = true := by decide
theorem test_fields_opcode : Fields.wf { opc := 0x14#8, reserved := 0#15, nc := false, imm8 := 0#8 } = false := by decide
theorem test_fields_reserved : Fields.wf { opc := 0x42#8, reserved := 1#15, nc := true, imm8 := 0#8 } = false := by decide
theorem test_fields_nc : Fields.wf { opc := 0x41#8, reserved := 0#15, nc := true, imm8 := 0#8 } = false := by decide
theorem test_fields_imm8 : Fields.wf { opc := 0x42#8, reserved := 0#15, nc := true, imm8 := 1#8 } = false := by decide

/-! ### Words written out from the map of 30_encoding.md R92: opcode, fifteen reserved bits, `NC`, `IMM8` -/

theorem test_decode_nop : decode 0b00000000000000000000000000000000#32 = .ok .nop := by rfl
theorem test_decode_sysReset : decode 0b00000001000000000000000000000000#32 = .ok .sysReset := by rfl
theorem test_decode_icsInit : decode 0b00010000000000000000000000000000#32 = .ok .icsInit := by rfl
theorem test_decode_icsAdd : decode 0b00010001000000000000000000000000#32 = .ok .icsAdd := by rfl
theorem test_decode_icsAddb : decode 0b00010010000000000000000011110010#32 = .ok (.icsAddb 0xF2#8) := by rfl
theorem test_decode_icsPh : decode 0b00010011000000000000000000000000#32 = .ok .icsPh := by rfl
theorem test_decode_icsPut : decode 0b00010101000000000000000000000000#32 = .ok .icsPut := by rfl
theorem test_decode_crcInit : decode 0b00100000000000000000000000000000#32 = .ok .crcInit := by rfl
theorem test_decode_crcAdd : decode 0b00100001000000000000000000000000#32 = .ok .crcAdd := by rfl
theorem test_decode_crcAddb : decode 0b00100010000000000000000000110001#32 = .ok (.crcAddb 0x31#8) := by rfl
theorem test_decode_adlInit : decode 0b00110000000000000000000000000000#32 = .ok .adlInit := by rfl
theorem test_decode_adlAdd : decode 0b00110001000000000000000000000000#32 = .ok .adlAdd := by rfl
theorem test_decode_adlAddb : decode 0b00110010000000000000000001100001#32 = .ok (.adlAddb 0x61#8) := by rfl
theorem test_decode_dnsClr : decode 0b01000000000000000000000000000000#32 = .ok .dnsClr := by rfl
theorem test_decode_dnsDec : decode 0b01000001000000000000000000000000#32 = .ok .dnsDec := by rfl
theorem test_decode_dnsEnc : decode 0b01000010000000000000000000000000#32 = .ok (.dnsEnc false) := by rfl
theorem test_decode_dnsEnc_nc : decode 0b01000010000000000000000100000000#32 = .ok (.dnsEnc true) := by rfl
theorem test_reject_opcode : decode 0x14000000#32 = .error .unassignedOpcode := by rfl
theorem test_reject_reserved : decode 0x42000200#32 = .error .reservedBits := by rfl
theorem test_reject_nc : decode 0x41000100#32 = .error .ncSet := by rfl
theorem test_reject_imm8 : decode 0x42000001#32 = .error .imm8Set := by rfl
theorem test_reject_all_ones : decode 0xFFFFFFFF#32 = .error .reservedBits := by rfl

/-! ### Three entries of the table of 41_crc32c.md R152 -/

theorem test_crc_table : crcTable 1#8 = 0xF26B8303#32 ∧ crcTable 128#8 = 0x82F63B78#32 ∧ crcTable 255#8 = 0xAD7D5351#32 := by
  decide

/-! ### One step on a small state; the expected values stand in the rule cited -/

/-- The bytes `bs` from the index `a` on, as written memory. -/
def cells (a : Nat) : List Byte → List Host.Cell
  | [] => []
  | b :: bs => (a, b) :: cells (a + 1) bs

/-- The small machine after reset, with `bs` written from `BUF[0]` on. -/
def withBuf (bs : List Byte) : State := { State.resetWith small with buf := cells 0 bs }

/-- A field of the state that a step gives. -/
def view {α : Type} (f : State → α) : Host.Outcome State Fault Refusal → Option α
  | .next s => some (f s)
  | _ => none

/-- The bytes of 40_internet_checksum.md R123's example, as a range. -/
def icsRange : State :=
  { withBuf [0x00#8, 0x01#8, 0xF2#8, 0x03#8, 0xF4#8, 0xF5#8, 0xF6#8, 0xF7#8] with argCnt := 8#32 }

/-- The registers of 40_internet_checksum.md R127's example. -/
def pseudo : State :=
  { withBuf [] with
    phSrc0 := 0xC0A80001#32, phDst0 := 0xC0A800C7#32, phCtl := 0x5#4, phProto := 17#8, phLen := 13#32 }

/-- The text "Wikipedia" in `BUF`, as a range. -/
def wikipedia : State :=
  { withBuf [0x57#8, 0x69#8, 0x6B#8, 0x69#8, 0x70#8, 0x65#8, 0x64#8, 0x69#8, 0x61#8] with argCnt := 9#32 }

/-- The text "123456789" in `BUF`, as a range. -/
def digits : State :=
  { withBuf [0x31#8, 0x32#8, 0x33#8, 0x34#8, 0x35#8, 0x36#8, 0x37#8, 0x38#8, 0x39#8] with argCnt := 9#32 }

/-- The message of 43_dns_name.md R197's example. -/
def message : State :=
  { withBuf [0x03#8, 0x63#8, 0x6F#8, 0x6D#8, 0x00#8, 0x01#8, 0x61#8, 0xC0#8, 0x00#8] with dnsLen := 9#32 }

/-- That message after its first name. -/
def message2 : State := { message with dnsPos := 5#32, dreg := [(0#32, [0x63#8, 0x6F#8, 0x6D#8])] }

/-- The name "a.com" to encode, and "com" registered at 0. -/
def named : State :=
  { withBuf [] with
    name := cells 0 [0x61#8, 0x2E#8, 0x63#8, 0x6F#8, 0x6D#8], nameLen := 5#32, dnsLen := 64#32, dnsPos := 5#32,
    ereg := [([0x63#8, 0x6F#8, 0x6D#8], 0#32)], dreg := [(0#32, [0x63#8, 0x6F#8, 0x6D#8])] }

/-- A state with every unit busy and an odd byte pending. -/
def busy : State :=
  { named with
    sum := 0x1234#16, hold := 0x56#8, odd := true, crc := 7#32, adlA := 0xFFF0#16, adlB := 0xFFF0#16, argPtr := 62#32,
    argCnt := 2#32, phCtl := 0xF#4, phLen := 0x10000#32 }

/-- A stopped machine. -/
def stopped : State := faulted busy 0x02#8 0x34#32 0#32

theorem test_nop : exec .nop busy = .next busy := by rfl
theorem test_sysReset : view (fun s => (s.fault, s.errPos, s.crc)) (exec .sysReset stopped) =
    some (false, 0#32, 0xFFFFFFFF#32) := by decide
theorem test_sysReset_keeps_name : view (fun s => (s.nameLen, s.name)) (exec .sysReset stopped) =
    some (0#32, busy.name) := by decide
theorem test_icsInit : view (fun s => (readReg s .icsSum, readReg s .icsResult)) (exec .icsInit busy) =
    some (0#32, 0x0000FFFF#32) := by decide
theorem test_icsAdd : view (fun s => (s.sum, s.odd, readReg s .icsResult)) (exec .icsAdd icsRange) =
    some (0xDDF2#16, false, 0x0000220D#32) := by decide
theorem test_icsAddb : view (fun s => (readReg s .icsSum, readReg s .icsResult)) (exec (.icsAddb 0xFF#8) (withBuf [])) =
    some (0x01FF0000#32, 0x000000FF#32) := by decide
theorem test_icsPh : view (fun s => s.sum) (exec .icsPh pseudo) = some 0x8237#16 := by decide
theorem test_icsPh_family : view (fun s => (s.errCode, s.sum)) (exec .icsPh { pseudo with phCtl := 0x7#4 }) =
    some (0x11#8, 0#16) := by decide
theorem test_icsPut : view (fun s => (bufRead s 62, bufRead s 63)) (exec .icsPut { busy with sum := 0x479E#16, odd := false }) =
    some (0xB8#8, 0x61#8) := by decide
theorem test_icsPut_bounds : view (fun s => (s.errCode, s.errPos)) (exec .icsPut { busy with argPtr := 63#32 }) =
    some (0x03#8, 63#32) := by decide
theorem test_crcInit : view (fun s => s.crc) (exec .crcInit busy) = some 0xFFFFFFFF#32 := by decide
theorem test_crcAdd : view (fun s => (s.crc, readReg s .crcResult)) (exec .crcAdd digits) =
    some (0x1CF96D7C#32, 0xE3069283#32) := by decide +kernel
theorem test_crcAddb : view (fun s => s.crc) (exec (.crcAddb 0x31#8) (withBuf [])) = some 0x6F0A661C#32 := by decide
theorem test_adlInit : view (fun s => readReg s .adlSum) (exec .adlInit busy) = some 1#32 := by decide
theorem test_adlAdd : view (fun s => readReg s .adlSum) (exec .adlAdd wikipedia) = some 0x11E60398#32 := by decide
theorem test_adlAddb_wraps : view (fun s => s.adlA) (exec (.adlAddb 0xFF#8) { busy with adlA := 0xFF01#16 }) =
    some 15#16 := by decide
theorem test_dnsClr : view (fun s => (readReg s .dnsDcount, readReg s .dnsEcount)) (exec .dnsClr named) =
    some (0#32, 0#32) := by decide
theorem test_dnsDec : view (fun s => (currentName s, s.dnsPos, s.dreg)) (exec .dnsDec message) =
    some ([0x63#8, 0x6F#8, 0x6D#8], 5#32, [(0#32, [0x63#8, 0x6F#8, 0x6D#8])]) := by decide
theorem test_dnsDec_pointer : view (fun s => (currentName s, s.dnsPos, s.dreg)) (exec .dnsDec message2) =
    some ([0x61#8, 0x2E#8, 0x63#8, 0x6F#8, 0x6D#8], 9#32,
      [(0#32, [0x63#8, 0x6F#8, 0x6D#8]), (5#32, [0x61#8, 0x2E#8, 0x63#8, 0x6F#8, 0x6D#8])]) := by decide
theorem test_dnsEnc_pointer : view (fun s => (s.buf, s.dnsPos)) (exec (.dnsEnc false) named) =
    some (cells 5 [0x01#8, 0x61#8, 0xC0#8, 0x00#8], 9#32) := by decide
theorem test_dnsEnc_full : view (fun s => (s.buf, s.dnsPos, s.ereg)) (exec (.dnsEnc true) named) =
    some (cells 5 [0x01#8, 0x61#8, 0x03#8, 0x63#8, 0x6F#8, 0x6D#8, 0x00#8], 12#32, named.ereg) := by decide
/-- A different value in every register that the host can write. -/
def marked : State :=
  { withBuf [] with
    argPtr := 1#32, argCnt := 2#32, phCtl := 3#4, phProto := 4#8, phLen := 5#32, phSrc0 := 6#32, phSrc1 := 7#32,
    phSrc2 := 8#32, phSrc3 := 9#32, phDst0 := 10#32, phDst1 := 11#32, phDst2 := 12#32, phDst3 := 13#32, dnsBase := 14#32,
    dnsLen := 15#32, dnsPos := 16#32, nameLen := 17#32 }

/-- The offsets of the writable registers stand in the table of 10_state.md R52. -/
theorem test_register_offsets :
    ([0x18, 0x1C, 0x28, 0x2C, 0x30, 0x40, 0x44, 0x48, 0x4C, 0x50, 0x54, 0x58, 0x5C, 0x80, 0x84, 0x88, 0x8C].map fun a =>
      (hostRead marked 32 (BitVec.ofNat 32 a)).rdata) = (List.range' 1 17).map fun n => some (BitVec.ofNat 32 n) := by
  decide
theorem test_write_argPtr : hostWrite busy 32 0x18#32 0xFFFFFFFE#32 = .next { busy with argPtr := 0xFFFFFFFE#32 } := by rfl
theorem test_write_phDst0 : hostWrite busy 32 0x50#32 0xC0A800C7#32 = .next { busy with phDst0 := 0xC0A800C7#32 } := by rfl
theorem test_step_command : step (issue busy 0x20000000#32) = exec .crcInit busy := by rfl
theorem test_step_placed : step (stopped.withFetchWord 32 0x120000F2) = exec (.icsAddb 0xF2#8) busy := by rfl

/-! ### A state that meets the hypotheses of each statement, its clauses at the ends of their ranges

A witness named after a statement shows its hypotheses met. -/

/-- The machine whose registries are full and whose window ends with `BUF`. -/
def full : State :=
  { busy with
    ereg := [([0x61#8], 1#32), ([0x63#8, 0x6F#8, 0x6D#8], 0x3FFF#32)], dnsBase := 55#32, dnsLen := 9#32, dnsPos := 7#32 }

theorem test_witness_inv : Inv busy :=
  ⟨by decide, by decide, by decide, by decide, by decide, by decide, by decide, by decide⟩

theorem test_witness_inv_stopped : Inv stopped :=
  ⟨by decide, by decide, by decide, by decide, by decide, by decide, by decide, by decide⟩

theorem test_witness_inv_message : Inv message2 :=
  ⟨by decide, by decide, by decide, by decide, by decide, by decide, by decide, by decide⟩

theorem test_witness_inv_named : Inv named :=
  ⟨by decide, by decide, by decide, by decide, by decide, by decide, by decide, by decide⟩

theorem test_witness_inv_full : Inv full :=
  ⟨by decide, by decide, by decide, by decide, by decide, by decide, by decide, by decide⟩

theorem test_witness_ResetRegisterReads : small.wf = true ∧ capFits small ∧
    (0x24, 0x0000FFFF#32) ∈ resetReads small ∧ (0xA8, 2#32) ∈ resetReads small :=
  ⟨by decide, by unfold capFits; decide, by decide, by decide⟩

theorem test_witness_ResetRegisterReads_unbounded :
    Params.wf { small with regCap := none } = true ∧ capFits { small with regCap := none } :=
  ⟨by decide, by unfold capFits; decide⟩

theorem test_witness_SysResetRestoresResetValues :
    (0x01000001#32).extractLsb' 24 8 = 0x01#8 ∧ 0x01000001#32 ≠ 0x01000000#32 ∧ busy.fault = false ∧
    stopped.fault = true := by decide

theorem test_witness_EveryStepCompletes : busy.port = [] := by decide

/-- Two machines that differ in what was returned before and in the events after the next. -/
def other : State := { busy with rdata := some 5#32, port := [.hardReset] }

theorem test_witness_EngineStateStandsAlone :
    (issue busy 0x20000000#32).toEngineState = (issue other 0x20000000#32).toEngineState ∧
    busy.params = other.params ∧ busy.epoch = other.epoch ∧
    (issue busy 0x20000000#32).port.head? = (issue other 0x20000000#32).port.head? ∧
    (issue busy 0x20000000#32).port ≠ [] ∧ busy.port ≠ other.port ∧ busy.rdata ≠ other.rdata ∧
    step (issue busy 0x20000000#32) = .next { busy with crc := 0xFFFFFFFF#32 } ∧
    step (issue other 0x20000000#32) = .next { other with crc := 0xFFFFFFFF#32, rdata := none } :=
  ⟨by rfl, by rfl, by rfl, by rfl, by decide, by decide, by decide, by rfl, by rfl⟩

theorem test_witness_StepRunsDecodedCommand :
    busy.fault = false ∧ decode 0x120000F2#32 = .ok (.icsAddb 0xF2#8) := ⟨by decide, by rfl⟩

theorem test_witness_IllegalWordRaises : busy.fault = false ∧
    (0x42000200#32).extractLsb' 9 15 ≠ 0#15 ∧
    ((0x41000100#32).getLsbD 8 = true ∧ (0x41000100#32).extractLsb' 24 8 ≠ 0x42#8) ∧
    ((0x42000001#32).extractLsb' 0 8 ≠ 0#8 ∧ (0x42000001#32).extractLsb' 24 8 ∉ [0x12#8, 0x22#8, 0x32#8]) ∧
    (0x43000000#32).extractLsb' 24 8 ∉ [0x00#8, 0x01#8, 0x10#8, 0x11#8, 0x12#8, 0x13#8, 0x15#8, 0x20#8, 0x21#8, 0x22#8,
      0x30#8, 0x31#8, 0x32#8, 0x40#8, 0x41#8, 0x42#8] := by decide

theorem test_witness_InvalidAccessRaises : busy.fault = false ∧ ¬ validRead small 32 0x34#32 ∧
    ¬ validRead small 8 0x1010#32 ∧ ¬ validRead small 8 0x80000040#32 ∧ ¬ validRead small 8 0x04#32 ∧
    ¬ validRead small 32 0x02#32 ∧ ¬ validWrite small 32 0x00#32 ∧ ¬ validWrite small 32 0x80000000#32 :=
  ⟨by decide, by decide, by decide, by decide, by decide, by decide, by decide, by decide⟩

theorem test_witness_ValidReadsHaveNoSideEffect : small.wf = true ∧ validRead small 32 0x04#32 ∧
    validRead small 32 0xB0#32 ∧ validRead small 8 0x1000#32 ∧ validRead small 8 0x100F#32 ∧
    validRead small 8 0x80000000#32 ∧ validRead small 8 0x8000003F#32 :=
  ⟨by decide, by decide, by decide, by decide, by decide, by decide, by decide⟩

theorem test_witness_RegistersShowState : busy.params.wf = true ∧ capFits busy.params ∧ busy.dreg.length < 2 ^ 32 ∧
    busy.ereg.length < 2 ^ 32 ∧ (0x20, 0x01561234) ∈ registerViews busy ∧ (0x18, 62) ∈ registerViews busy ∧
    (0xA8, 2) ∈ registerViews busy :=
  ⟨by decide, by unfold capFits; decide, by decide, by decide, by decide, by decide, by decide⟩

theorem test_witness_RegisterWriteReadsBack : busy.fault = false ∧ (0x28, 0x0000000F#32) ∈ writableRegisters ∧
    (0x8C, 0xFFFFFFFF#32) ∈ writableRegisters := by decide

theorem test_witness_WindowWriteStoresOneByte :
    busy.params.wf = true ∧ busy.fault = false ∧ 63 < busy.params.bufSize ∧ 15 < busy.params.nameMax := by decide

theorem test_witness_DecoderFollowsOpcodeMap :
    ({ mnemonic := "DNS.ENC", pattern := 0x42000000#32, mask := 0xFFFFFEFF#32 } : CommandRow) ∈ commandRows ∧
    0x42000100#32 &&& 0xFFFFFEFF#32 = 0x42000000#32 ∧ decode 0x42000100#32 = .ok (.dnsEnc true) :=
  ⟨by decide, by decide, by rfl⟩

theorem test_witness_StoppedEngineIgnoresWrites :
    stopped.fault = true ∧ HostEvent.write 32 0x04#32 0x01000001#32 ≠ .hardReset ∧
    HostEvent.write 32 0x04#32 0x01000001#32 ≠ .write 32 0x04#32 0x01000000#32 ∧
    ¬ validRead stopped.params 32 0x34#32 := by decide

theorem test_witness_StoppedEngineIgnoresWrites_reset :
    ∃ t, stopped.fault = true ∧ step (issue stopped 0x01000000#32) = .next t ∧ t.fault = false :=
  ⟨softReset stopped, by decide, by rfl, by decide⟩

theorem test_witness_FaultingCommandIsRecorded : ∃ t, message.fault = false ∧
    exec .dnsDec { message with dnsPos := 9#32 } = .next t ∧ t.fault = true ∧ t.errCode ∈ dnsCodes :=
  ⟨faulted { message with dnsPos := 9#32 } 0x20#8 9#32 0x41000000#32, by decide, by rfl, by decide, by decide⟩

theorem test_witness_EarlyFaultsChangeNothingElse : ∃ t, (withBuf []).fault = false ∧
    exec .icsPh (withBuf []) = .next t ∧ t.fault = true ∧ t.errCode ∉ dnsCodes :=
  ⟨faulted (withBuf []) 0x10#8 0#32 0x13000000#32, by decide, by rfl, by decide, by decide⟩

theorem test_witness_FaultingDecodeRegistersNothing : ∃ t, message.params.wf = true ∧ message.fault = false ∧
    exec .dnsDec { message with dnsPos := 9#32 } = .next t ∧ t.fault = true ∧ t.errCode ≠ 0x23#8 :=
  ⟨faulted { message with dnsPos := 9#32 } 0x20#8 9#32 0x41000000#32, by decide, by decide, by rfl, by decide, by decide⟩

theorem test_witness_NopDoesNothing : (0x00000001#32).extractLsb' 24 8 = 0x00#8 ∧
    0x00000001#32 ≠ 0x00000000#32 ∧ busy.fault = false := by decide

/-- The three range statements: a range that ends with `BUF`, and one that ends one byte later. -/
theorem test_witness_AddAbsorbsRange : busy.argPtr.toNat + busy.argCnt.toNat = busy.params.bufSize ∧
    busy.params.bufSize < (63#32).toNat + busy.argCnt.toNat ∧ busy.fault = false ∧
    (withBuf []).argCnt = 0#32 ∧ (withBuf []).argPtr.toNat ≤ (withBuf []).params.bufSize := by decide

theorem test_witness_IcsPhAbsorbsPseudoHeader : (pseudo.phCtl = 0x5#4 ∧ pseudo.phLen.toNat ≤ 0xFFFF) ∧
    (busy.phCtl = 0xF#4 ∧ 0xFFFF < busy.phLen.toNat) ∧ pseudo.fault = false := by decide

theorem test_witness_IcsPutStoresResult : busy.argPtr.toNat + 2 = busy.params.bufSize ∧
    busy.params.bufSize < (63#32).toNat + 2 ∧ busy.fault = false := by decide

theorem test_witness_OnesSumClosedForm : List.Perm [1#16, 2#16] [2#16, 1#16] := by decide

theorem test_witness_WideAccumulatorAgrees : foldCarry^[1] (wordTotal [0xFFFF#16, 0xFFFF#16]) < 0x10000 := by decide

theorem test_witness_InetChecksumSelfVerifies : 2 * 0 + 1 < [0xFF#8, 0xFE#8, 0x00#8, 0x01#8].length ∧
    inetChecksum [0xFF#8, 0xFE#8, 0x00#8, 0x01#8] = 0x0000#16 := by decide

theorem test_witness_EvenPiecesCommute : (∀ p ∈ [[1#8, 2#8], [3#8, 4#8, 5#8, 6#8]], p.length % 2 = 0) ∧
    List.Perm [[1#8, 2#8], [3#8, 4#8, 5#8, 6#8]] [[3#8, 4#8, 5#8, 6#8], [1#8, 2#8]] := by decide

theorem test_witness_SplitRangesAgree : ∃ t u v, busy.argPtr.toNat + 1 + 1 ≤ busy.params.bufSize ∧
    busy.params.wf = true ∧ Instr.adlAdd ∈ [Instr.icsAdd, Instr.crcAdd, Instr.adlAdd] ∧
    exec .adlAdd { busy with argCnt := BitVec.ofNat 32 (1 + 1) } = .next t ∧
    exec .adlAdd { busy with argCnt := BitVec.ofNat 32 1 } = .next u ∧
    exec .adlAdd { u with argPtr := busy.argPtr + BitVec.ofNat 32 1, argCnt := BitVec.ofNat 32 1 } = .next v :=
  ⟨_, _, _, by decide, by decide, by decide, rfl, rfl, rfl⟩

theorem test_witness_UnitsAreIndependent : exec .dnsClr named = .next { named with dreg := [], ereg := [] } ∧
    Instr.dnsClr ≠ .sysReset ∧ changesIcs .dnsClr = false ∧ changesCrc .dnsClr = false ∧ changesAdl .dnsClr = false ∧
    writesBuf .dnsClr = false := ⟨by rfl, by decide, by decide, by decide, by decide, by decide⟩

theorem test_witness_RegistryInsertion :
    mapSorted wordLt [(0#32, [0x61#8]), (5#32, [0x62#8])] ∧
    regPut (some 2) wordLt [(0#32, [0x61#8]), (5#32, [0x62#8])] 5#32 [0x63#8] = some [(0#32, [0x61#8]), (5#32, [0x63#8])] ∧
    regPut (some 2) wordLt [(0#32, [0x61#8]), (5#32, [0x62#8])] 6#32 [0x63#8] = none := by decide

theorem test_witness_RegistryInsertion_names :
    mapSorted nameLt [([0x61#8], 0#32), ([0x61#8, 0x2E#8], 5#32)] ∧
    regPut (some 3) nameLt [([0x61#8], 0#32), ([0x61#8, 0x2E#8], 5#32)] [0x62#8] 9#32 =
      some [([0x61#8], 0#32), ([0x61#8, 0x2E#8], 5#32), ([0x62#8], 9#32)] ∧
    regPut (some 2) nameLt [([0x61#8], 0#32), ([0x61#8, 0x2E#8], 5#32)] [0x62#8] 9#32 = none := by decide

theorem test_witness_DecodeLoneItem : message.params.wf = true ∧ windowFits message ∧
    ((4#32).toNat < message.dnsLen.toNat ∧ messageByte message 4 = 0x00#8) ∧
    ((7#32).toNat + 1 < message.dnsLen.toNat ∧ (0#32).toNat ≤ 0x3FFF ∧
      messageByte message 7 = 0xC0#8 ||| ((0#32).extractLsb' 8 6).setWidth 8 ∧
      messageByte message 8 = (0#32).extractLsb' 0 8 ∧
      mapGet 0#32 message2.dreg = some [0x63#8, 0x6F#8, 0x6D#8]) := by
  unfold windowFits; decide

theorem test_witness_DecodeReadsName_terminator : Inv message ∧ windowFits message ∧
    (∀ l ∈ [[0x63#8, 0x6F#8, 0x6D#8]], 1 ≤ l.length ∧ l.length ≤ 191) ∧
    messageHolds message (wireName [[0x63#8, 0x6F#8, 0x6D#8]] .terminator) ∧
    message.dnsPos.toNat + (wireName [[0x63#8, 0x6F#8, 0x6D#8]] .terminator).length ≤ message.dnsLen.toNat ∧
    (nameText [[0x63#8, 0x6F#8, 0x6D#8]] []).length ≤ message.params.nameMax ∧
    roomFor message message.dreg.length (newKeys message (suffixesAt 0 [] [[0x63#8, 0x6F#8, 0x6D#8]])) := by
  refine ⟨⟨by decide, by decide, by decide, by decide, by decide, by decide, by decide, by decide⟩, ?_⟩
  unfold windowFits messageHolds roomFor; decide

theorem test_witness_DecodeReadsName_pointer : windowFits message2 ∧
    (∀ l ∈ [[0x61#8]], 1 ≤ l.length ∧ l.length ≤ 191) ∧
    ((0#32).toNat ≤ 0x3FFF ∧ mapGet 0#32 message2.dreg = some [0x63#8, 0x6F#8, 0x6D#8]) ∧
    messageHolds message2 (wireName [[0x61#8]] (.pointer 0#32)) ∧
    message2.dnsPos.toNat + (wireName [[0x61#8]] (.pointer 0#32)).length = message2.dnsLen.toNat ∧
    (nameText [[0x61#8]] [0x63#8, 0x6F#8, 0x6D#8]).length ≤ message2.params.nameMax ∧
    roomFor message2 message2.dreg.length (newKeys message2 (suffixesAt 5 [0x63#8, 0x6F#8, 0x6D#8] [[0x61#8]])) := by
  unfold windowFits messageHolds roomFor; decide

/-- The message after both names: its registry is full. -/
def message3 : State :=
  { message2 with
    dreg := [(0#32, [0x63#8, 0x6F#8, 0x6D#8]), (5#32, [0x61#8, 0x2E#8, 0x63#8, 0x6F#8, 0x6D#8])] }

/-- A position registered before is decoded again with a full registry. -/
theorem test_witness_DecodeReadsName_again : message3.params.regCap = some message3.dreg.length ∧
    roomFor message3 message3.dreg.length (newKeys message3 (suffixesAt 5 [0x63#8, 0x6F#8, 0x6D#8] [[0x61#8]])) := by
  unfold roomFor; decide

theorem test_witness_DecodeFaultsAtOnce : message.params.wf = true ∧ message.fault = false ∧
    ¬ windowFits { message with dnsBase := 56#32 } ∧ windowFits { message with dnsBase := 55#32 } ∧
    message.dnsLen.toNat ≤ (9#32).toNat ∧
    (messageByte message 0 = 0x03#8 ∧ (3#32).toNat < (0#32).toNat + 1 + (0x03#8).toNat) ∧
    (0xC0 ≤ (messageByte message 7).toNat ∧ (8#32).toNat = (7#32).toNat + 1) ∧
    (7#32).toNat + 1 < message.dnsLen.toNat ∧
    mapGet (pointerOffset (messageByte message 7) (messageByte message 8)) message.dreg = none := by
  unfold windowFits; decide

theorem test_witness_DecodeFaultsAtOnce_overflow : Params.wf { small with nameMax := 2 } = true ∧
    windowFits { message with params := { small with nameMax := 2 } } ∧ messageByte message 0 = 0x03#8 ∧
    2 < (0x03#8).toNat ∧ (0x03#8).toNat ≤ 0xBF ∧ 0 + 1 + (0x03#8).toNat ≤ message.dnsLen.toNat := by
  unfold windowFits; decide

/-- A message of the name "a.b" whose registry has room for one more suffix. -/
def twoLabels : State :=
  { withBuf [0x01#8, 0x61#8, 0x01#8, 0x62#8, 0x00#8] with dnsLen := 5#32, dreg := [(9#32, [0x63#8])] }

theorem test_witness_DecodeStopsWhenRegistryFull : Inv twoLabels ∧ twoLabels.fault = false ∧ windowFits twoLabels ∧
    (∀ l ∈ [[0x61#8], [0x62#8]], 1 ≤ l.length ∧ l.length ≤ 191) ∧
    messageHolds twoLabels (wireName [[0x61#8], [0x62#8]] .terminator) ∧
    twoLabels.dnsPos.toNat + (wireName [[0x61#8], [0x62#8]] .terminator).length = twoLabels.dnsLen.toNat ∧
    (nameText [[0x61#8], [0x62#8]] []).length ≤ twoLabels.params.nameMax ∧
    (suffixesAt 0 [] [[0x61#8], [0x62#8]])[0]? = some (0, [0x61#8, 0x2E#8, 0x62#8]) ∧
    mapGet (BitVec.ofNat 32 0) twoLabels.dreg = none ∧
    twoLabels.params.regCap =
      some (twoLabels.dreg.length + newKeys twoLabels ((suffixesAt 0 [] [[0x61#8], [0x62#8]]).drop 1)) := by
  refine ⟨⟨by decide, by decide, by decide, by decide, by decide, by decide, by decide, by decide⟩, by decide, ?_⟩
  unfold windowFits messageHolds; decide

theorem test_decode_registry_full : view (fun s => (s.errCode, s.errPos, s.dreg)) (exec .dnsDec twoLabels) =
    some (0x23#8, 5#32, [(2#32, [0x62#8]), (9#32, [0x63#8])]) := by decide

theorem test_witness_PointerBytesRoundTrip : (0x3FFF#32).toNat ≤ 0x3FFF := by decide

theorem test_witness_EncodeRootAndKnownName : named.params.wf = true ∧ windowFits named ∧
    ((withBuf []).nameLen = 0#32 ∧ named.dnsPos.toNat < named.dnsLen.toNat) ∧
    (0 < (3#32).toNat ∧ (3#32).toNat ≤ full.params.nameMax ∧ (0x3FFF#32).toNat ≤ 0x3FFF ∧
      full.dnsPos.toNat + 1 < full.dnsLen.toNat ∧
      mapGet (currentName { full with name := cells 0 [0x63#8, 0x6F#8, 0x6D#8], nameLen := 3#32 }) full.ereg =
        some 0x3FFF#32) := by
  unfold windowFits; decide

theorem test_witness_EncodeWritesName_pointer : windowFits named ∧ encodableLabel [0x61#8] ∧
    currentName named = nameText [[0x61#8]] [0x63#8, 0x6F#8, 0x6D#8] ∧ named.nameLen.toNat ≤ named.params.nameMax ∧
    ((0#32).toNat ≤ 0x3FFF ∧ mapGet [0x63#8, 0x6F#8, 0x6D#8] named.ereg = some 0#32) ∧
    (∀ p ∈ suffixesAt named.dnsPos.toNat [0x63#8, 0x6F#8, 0x6D#8] [[0x61#8]], mapGet p.2 named.ereg = none) ∧
    roomFor named named.ereg.length 1 ∧
    named.dnsPos.toNat + (wireName [[0x61#8]] (.pointer 0#32)).length ≤ named.dnsLen.toNat := by
  unfold windowFits encodableLabel roomFor; decide

/-- With `NC` = 0 and a terminator: the name "a.com" and an empty registry of two entries. -/
theorem test_witness_EncodeWritesName_new : Inv { named with ereg := [] } ∧ windowFits named ∧
    currentName named = nameText [[0x61#8], [0x63#8, 0x6F#8, 0x6D#8]] [] ∧
    (∀ p ∈ suffixesAt named.dnsPos.toNat [] [[0x61#8], [0x63#8, 0x6F#8, 0x6D#8]],
      mapGet p.2 ([] : List (List Byte × Word)) = none) ∧
    roomFor { named with ereg := [] } 0 2 ∧
    named.dnsPos.toNat + (wireName [[0x61#8], [0x63#8, 0x6F#8, 0x6D#8]] .terminator).length ≤ named.dnsLen.toNat := by
  refine ⟨⟨by decide, by decide, by decide, by decide, by decide, by decide, by decide, by decide⟩, ?_⟩
  unfold windowFits roomFor; decide

theorem test_witness_EncodeWritesName_terminator : windowFits named ∧ encodableLabel [0x61#8] ∧
    encodableLabel [0x63#8, 0x6F#8, 0x6D#8] ∧ currentName named = nameText [[0x61#8], [0x63#8, 0x6F#8, 0x6D#8]] [] ∧
    named.nameLen.toNat ≤ named.params.nameMax ∧
    named.dnsPos.toNat + (wireName [[0x61#8], [0x63#8, 0x6F#8, 0x6D#8]] .terminator).length ≤ named.dnsLen.toNat := by
  unfold windowFits encodableLabel; decide

theorem test_witness_EncodeFaultsAtOnce : named.params.wf = true ∧ named.fault = false ∧
    ¬ windowFits { named with dnsBase := 1#32 } ∧ windowFits named ∧ named.params.nameMax < (17#32).toNat ∧
    ((withBuf []).nameLen = 0#32 ∧ (withBuf []).dnsLen.toNat ≤ (withBuf []).dnsPos.toNat) ∧
    nameRead { named with name := cells 0 [0x2E#8] } 0 = dot := by
  unfold windowFits; decide

/-- The name given, whole in the registry at an offset just too large, and at the largest with no room for the pointer. -/
theorem test_witness_EncodeFaultsAtOnce_pointer :
    nameGiven { named with ereg := [(currentName named, 0x4000#32)] } ∧
    mapGet (currentName named) [(currentName named, 0x4000#32)] = some 0x4000#32 ∧ 0x3FFF < (0x4000#32).toNat ∧
    nameGiven { named with ereg := [(currentName named, 0x3FFF#32)], dnsPos := 64#32 } ∧
    mapGet (currentName named) [(currentName named, 0x3FFF#32)] = some 0x3FFF#32 ∧ (0x3FFF#32).toNat ≤ 0x3FFF ∧
    named.dnsLen.toNat ≤ (64#32).toNat := by
  unfold nameGiven windowFits; decide

theorem test_witness_EncodeFaultsAtOnce_full : nameGiven full ∧ mapGet (currentName full) full.ereg = none ∧
    full.params.regCap = some full.ereg.length := by
  unfold nameGiven windowFits; decide

theorem test_witness_EncodeFaultsAtOnce_overrun : nameGiven { named with dnsPos := 64#32 } ∧
    ¬ firstLabelEmpty named ∧ ¬ firstLabelLong named ∧ named.dnsLen.toNat ≤ (64#32).toNat ∧ nameIsNew named := by
  unfold nameGiven windowFits firstLabelEmpty firstLabelLong nameIsNew; decide

theorem test_witness_EncodeFaultsAtOnce_empty :
    nameGiven { named with name := cells 0 [0x2E#8], nameLen := 1#32 } ∧
    firstLabelEmpty { named with name := cells 0 [0x2E#8], nameLen := 1#32 } ∧
    nameIsNew { named with name := cells 0 [0x2E#8], nameLen := 1#32 } := by
  unfold nameGiven windowFits firstLabelEmpty nameIsNew; decide

/-- The name of `named` with room for three bytes. -/
theorem test_witness_EncodeStopsPartWay_overrun : Inv { named with dnsLen := 8#32 } ∧
    windowFits { named with dnsLen := 8#32 } ∧ encodableLabel [0x61#8] ∧
    currentName named = nameText [[0x61#8]] [0x63#8, 0x6F#8, 0x6D#8] ∧
    (∀ p ∈ suffixesAt named.dnsPos.toNat [0x63#8, 0x6F#8, 0x6D#8] [[0x61#8]], mapGet p.2 named.ereg = none) ∧
    roomFor named named.ereg.length 1 ∧ named.dnsPos.toNat ≤ (8#32).toNat ∧
    (8#32).toNat < named.dnsPos.toNat + (wireName [[0x61#8]] (.pointer 0#32)).length := by
  refine ⟨⟨by decide, by decide, by decide, by decide, by decide, by decide, by decide, by decide⟩, ?_⟩
  unfold windowFits encodableLabel roomFor; decide

theorem test_encode_overrun :
    view (fun s => (s.errPos, s.buf, s.ereg.length)) (exec (.dnsEnc false) { named with dnsLen := 8#32 }) =
      some (8#32, cells 5 [0x01#8, 0x61#8, 0xC0#8], 2) := by decide

/-- The names "a." and "a..". -/
theorem test_witness_EncodeStopsPartWay_empty : windowFits named ∧ encodableLabel [0x61#8] ∧
    currentName { named with nameLen := 2#32 } = joinLabels [[0x61#8]] ++ dot :: [] ∧
    currentName { named with name := cells 0 [0x61#8, 0x2E#8, 0x2E#8], nameLen := 3#32 } = joinLabels [[0x61#8]] ++ dot :: [dot] ∧
    named.dnsPos.toNat + (labelItems [[0x61#8]]).length ≤ named.dnsLen.toNat := by
  unfold windowFits encodableLabel; decide

/-- A good label and one of 64 bytes. -/
def secondLong : State :=
  { State.resetWith { small with nameMax := 66 } with
    name := cells 0 (0x61#8 :: 0x2E#8 :: List.replicate 64 0x62#8), nameLen := 66#32, dnsLen := 64#32 }

theorem test_witness_EncodeStopsPartWay_long : secondLong.params.wf = true ∧ secondLong.fault = false ∧
    windowFits secondLong ∧ secondLong.dnsPos.toNat + (labelItems [[0x61#8]]).length ≤ secondLong.dnsLen.toNat ∧
    currentName secondLong = joinLabels [[0x61#8]] ++ dot :: List.replicate 64 0x62#8 ∧
    63 < (List.replicate 64 0x62#8).length ∧ dot ∉ (List.replicate 64 0x62#8).take 64 := by
  unfold windowFits; decide +kernel

theorem test_encode_second_long : view (fun s => (s.errCode, s.errPos, s.buf)) (exec (.dnsEnc true) secondLong) =
    some (0x24#8, 2#32, cells 0 [0x01#8, 0x61#8]) := by decide +kernel

theorem test_witness_EncodeFaultsAtOnce_long :
    63 < (64#32).toNat ∧ (64#32).toNat ≤ Params.nameMax { small with nameMax := 64 } ∧
    ∀ i ≤ 63, nameRead { State.resetWith { small with nameMax := 64 } with name := cells 0 (List.replicate 64 0x61#8) } i ≠
      dot := by decide +kernel

theorem test_witness_EncodeFrame : ∃ t, named.params.wf = true ∧ exec (.dnsEnc true) named = .next t :=
  ⟨_, by decide, rfl⟩

theorem test_witness_DecodeFrame : ∃ t, message2.params.wf = true ∧ windowFits message2 ∧ exec .dnsDec message2 = .next t :=
  ⟨_, by decide, by unfold windowFits; decide, rfl⟩

theorem test_witness_CompressionNeverLonger : ∃ t u, named.fault = false ∧ exec (.dnsEnc false) named = .next t ∧
    t.fault = false ∧ exec (.dnsEnc true) named = .next u ∧ u.fault = false :=
  ⟨_, _, by decide, rfl, by decide, rfl, by decide⟩

/-- The same with room for two more names in the decode registry. -/
def roomy : State := { named with params := { small with regCap := some 3 } }

theorem test_witness_EncodeDecodeRoundTrip_registries : mirrored roomy ∧ registeredBefore roomy := by
  constructor <;>
  · intro nm off h
    simp only [roomy, named, mapGet] at h ⊢
    split at h
    · cases h; subst nm; decide
    · cases h

theorem test_witness_EncodeDecodeRoundTrip : ∃ t, Inv roomy ∧ roomy.fault = false ∧
    roomFor roomy roomy.dreg.length (dotCount (currentName roomy) + 1) ∧
    exec (.dnsEnc false) roomy = .next t ∧ t.fault = false :=
  ⟨_, ⟨by decide, by decide, by decide, by decide, by decide, by decide, by decide, by decide⟩, by decide,
    by unfold roomFor; decide, rfl, by decide⟩

theorem test_witness_EveryStepKeepsInv : Inv (issue busy 0x20000000#32) ∧
    step (issue busy 0x20000000#32) = .next { busy with crc := 0xFFFFFFFF#32 } :=
  ⟨⟨by decide, by decide, by decide, by decide, by decide, by decide, by decide, by decide⟩, by rfl⟩

theorem test_witness_InvHoldsAtReset : small.wf = true ∧ Config.exampleParams.wf = true := by decide

end Sys2Proof.Tests
end

/-! PROOF. Every host event completes (00_scope.md R7, 60_exceptions.md R254), and what it does to what stands around the
engine: a command and a write leave that alone, a read sets the value returned. -/

namespace Sys2Proof.Machine

open Sys2Proof

/-- `t` has around it what `s` has: parameters, count of hard resets, host events to come, value returned. -/
def SameSurroundings (s t : State) : Prop := t.toSurroundings = s.toSurroundings

@[refl] theorem SameSurroundings.refl (s : State) : SameSurroundings s s := rfl

theorem SameSurroundings.port {s t : State} (h : SameSurroundings s t) : t.port = s.port :=
  congrArg Surroundings.port h

theorem SameSurroundings.trans {s t u : State} (h : SameSurroundings s t) (h' : SameSurroundings t u) :
    SameSurroundings s u := Eq.trans h' h

/-! ### The pieces of a command -/

theorem takeFault_sameSurroundings (s : State) (c : ErrCode) (pos cmd : Word) :
    SameSurroundings s (takeFault s c pos cmd) := by
  rw [SameSurroundings, takeFault_eq]

@[simp] theorem rangeOperand_state (s : State) : (rangeOperand s).state = s := by
  rcases rangeOperand_cases s with ⟨h, _⟩ | ⟨h, _⟩ <;> rw [h] <;> rfl

@[simp] theorem phOperand_state (s : State) : (phOperand s).state = s := by
  unfold phOperand
  split_ifs <;> rfl

theorem rangeOperand_sameSurroundings (s : State) : SameSurroundings s (rangeOperand s).state := by
  rw [rangeOperand_state]

theorem phOperand_sameSurroundings (s : State) : SameSurroundings s (phOperand s).state := by
  rw [phOperand_state]

theorem memWrite_sameSurroundings (s : State) (a : Nat) (v : List Byte) : SameSurroundings s (memWrite s a v) := by
  rw [SameSurroundings, memWrite_eq]

theorem dnsDecode_sameSurroundings (s : State) : SameSurroundings s (dnsDecode s).state := by
  rw [SameSurroundings, dnsDecode_frame]

theorem EncFrame.sameSurroundings {s t : State} (h : EncFrame s t) : SameSurroundings s t := by
  rw [SameSurroundings, h]

/-! ### A command -/

/-- `o` is a next state, no host-level fault and no refusal, with around it what `s` has. -/
def Completes (s : State) (o : Host.Outcome State Fault Refusal) : Prop :=
  ∃ t, o = .next t ∧ SameSurroundings s t

theorem completes_next {s t : State} (h : SameSurroundings s t) : Completes s (.next t) := ⟨t, rfl, h⟩

/-- A command completes when its pseudocode works on the engine alone, also when it raises a fault. -/
theorem finish_completes {s : State} (w : Word) {r : Res Unit} (h : SameSurroundings s r.state) :
    Completes s (finish w r) := by
  cases r with
  | ok _ t => exact completes_next h
  | raise c pos t => exact completes_next (h.trans (takeFault_sameSurroundings t c pos w))

/-- Every command completes: it is a piece of pseudocode on the engine alone, closed by `finish`. -/
theorem exec_completes (i : Instr) (s : State) : Completes s (exec i s) := by
  cases i with
  | nop => exact completes_next (.refl s)
  | sysReset => exact completes_next (softReset_toSurroundings s)
  | icsInit => exact completes_next (setIcs_toSurroundings s _ _ _)
  | icsAdd => exact finish_completes _ (bind_keeps (rangeOperand_sameSurroundings s) fun _ _ _ ht => ht)
  | icsAddb imm8 => exact completes_next (setIcs_toSurroundings s _ _ _)
  | icsPh => exact finish_completes _ (bind_keeps (phOperand_sameSurroundings s) fun _ _ _ ht => ht)
  | icsPut =>
    refine finish_completes _ ?_
    split
    · exact memWrite_sameSurroundings s _ _
    · exact .refl s
  | crcInit => exact completes_next (setCrc_toSurroundings s _)
  | crcAdd => exact finish_completes _ (bind_keeps (rangeOperand_sameSurroundings s) fun _ _ _ ht => ht)
  | crcAddb imm8 => exact completes_next (setCrc_toSurroundings s _)
  | adlInit => exact completes_next (setAdl_toSurroundings s _ _)
  | adlAdd => exact finish_completes _ (bind_keeps (rangeOperand_sameSurroundings s) fun _ _ _ ht => ht)
  | adlAddb imm8 => exact completes_next (setAdl_toSurroundings s _ _)
  | dnsClr => exact completes_next ((setEreg_toSurroundings (s.setDreg []) []).trans (setDreg_toSurroundings s []))
  | dnsDec => exact finish_completes _ (dnsDecode_sameSurroundings s)
  | dnsEnc nc => exact finish_completes _ (dnsEncode_frame nc s).sameSurroundings

/-! ### A host event -/

theorem commandWrite_completes (s : State) (w : Word) : Completes s (commandWrite s w) := by
  unfold commandWrite
  split
  · split
    · exact exec_completes .sysReset s
    · exact completes_next (.refl s)
  · split
    · exact completes_next (takeFault_sameSurroundings s _ _ _)
    · exact exec_completes _ s

theorem writeReg_sameSurroundings (s : State) (r : Reg) (v : Word) : SameSurroundings s (writeReg s r v) := by
  cases r <;> rfl

theorem storeTarget_sameSurroundings (s : State) (t : Target) (data : Word) :
    SameSurroundings s (storeTarget s t data) := by
  cases t with
  | reg r access => exact writeReg_sameSurroundings s r data
  | nameByte i => rfl
  | bufByte a => rfl

theorem hostWrite_completes (s : State) (width : Nat) (addr data : Word) :
    Completes s (hostWrite s width addr data) := by
  unfold hostWrite
  split
  · exact completes_next (takeFault_sameSurroundings s _ _ _)
  · exact commandWrite_completes s data
  · refine completes_next ?_
    split
    · exact .refl s
    · exact storeTarget_sameSurroundings s _ data

/-- A read returns a value to the host, valid or not, and leaves the rest of what stands around the engine. -/
theorem hostRead_toSurroundings (s : State) (width : Nat) (addr : Word) :
    ∃ v, (hostRead s width addr).toSurroundings = { s.toSurroundings with rdata := some v } := by
  unfold hostRead
  split
  · exact ⟨_, rfl⟩
  · exact ⟨0#32, congrArg (fun u : Surroundings => { u with rdata := some 0#32 })
      (takeFault_sameSurroundings s .access addr 0#32)⟩

/-- Every host event is served, and leaves the events after it to come. -/
theorem hostEvent_completes (s : State) (ev : HostEvent) : ∃ t, hostEvent s ev = .next t ∧ t.port = s.port := by
  cases ev with
  | read width addr =>
    obtain ⟨v, hv⟩ := hostRead_toSurroundings s width addr
    exact ⟨_, rfl, by rw [hv]⟩
  | write width addr data =>
    obtain ⟨t, ht, hs⟩ := hostWrite_completes s width addr data
    exact ⟨t, ht, hs.port⟩
  | hardReset => exact ⟨_, rfl, hardReset_port s⟩

/-! ### A step -/

theorem step_of_port_nil {s : State} (h : s.port = []) : step s = .next s := by
  simp [step, h]

theorem step_of_port_cons {s : State} {ev : HostEvent} {rest : List HostEvent} (h : s.port = ev :: rest) :
    step s = hostEvent (serving s rest) ev := by
  simp [step, h]

@[simp] theorem serving_port (s : State) (rest : List HostEvent) : (serving s rest).port = rest := rfl

/-- Every step ends in a next state, with one event fewer to come if there was one. -/
theorem step_completes (s : State) : ∃ t, step s = .next t ∧ t.port = s.port.tail := by
  cases h : s.port with
  | nil => exact ⟨s, step_of_port_nil h, h⟩
  | cons ev rest =>
    obtain ⟨t, ht, hp⟩ := hostEvent_completes (serving s rest) ev
    exact ⟨t, (step_of_port_cons h).trans ht, hp.trans (serving_port s rest)⟩

end Sys2Proof.Machine

namespace Sys2Proof.Claims

open Sys2Proof Sys2Proof.Machine

/-- Settles O4: each event is served by a read, a write or a hard reset, and each of these completes, a command
because it ends in `finish`. -/
theorem everyStepCompletes : Obligations.EveryStepCompletes :=
  fun s => ⟨step_completes s, step_of_port_nil⟩

end Sys2Proof.Claims

/-! PROOF. The rule of induction of the DNS unit: what every byte operation keeps, the loops of `DNS.DEC` and `DNS.ENC`
keep (43_dns_name.md R193, R194, R197, R201). -/

namespace Sys2Proof.Machine

open Sys2Proof

/-! ### Decode -/

section

variable {P : State → Prop}

theorem nameSeparator_keeps (ha : ∀ c s, P s → P (nameAppend c s).state) {s : State} (h : P s) :
    P (nameSeparator s).state := by
  unfold nameSeparator
  split
  · exact h
  · exact ha dot s h

theorem nameAppendAll_keeps (ha : ∀ c s, P s → P (nameAppend c s).state) (cs : List Byte) {s : State} (h : P s) :
    P (nameAppendAll cs s).state := by
  induction cs generalizing s with
  | nil => exact h
  | cons c cs ih => exact bind_keeps (ha c s h) fun _ _ _ ht => ih ht

theorem decLabel_keeps (hr : ∀ s, P s → P (dnsRd8 s).state) (ha : ∀ c s, P s → P (nameAppend c s).state) (n : Nat)
    {s : State} (h : P s) : P (decLabel n s).state := by
  induction n generalizing s with
  | zero => exact h
  | succ n ih => exact bind_keeps (hr s h) fun c t _ ht => bind_keeps (ha c t ht) fun _ _ _ hu => ih hu

theorem decPointer_keeps (hr : ∀ s, P s → P (dnsRd8 s).state) (ha : ∀ c s, P s → P (nameAppend c s).state) (p0 : Byte)
    {s : State} (h : P s) : P (decPointer p0 s).state := by
  refine bind_keeps (hr s h) fun p1 t _ ht => ?_
  split
  · exact ht
  · exact bind_keeps (nameSeparator_keeps ha ht) fun _ _ _ hu => nameAppendAll_keeps ha _ hu

theorem decItems_keeps (hr : ∀ s, P s → P (dnsRd8 s).state) (ha : ∀ c s, P s → P (nameAppend c s).state) (fuel : Nat)
    (k : List (Word × Nat)) {s : State} (h : P s) : P (decItems fuel k s).state := by
  induction fuel generalizing k s with
  | zero => exact h
  | succ fuel ih =>
    refine bind_keeps (hr s h) fun len t _ ht => ?_
    split
    · exact ht
    split
    · exact bind_keeps (decPointer_keeps hr ha len ht) fun _ _ _ hu => hu
    split
    · exact ht
    refine bind_keeps (nameSeparator_keeps ha ht) fun _ u _ hu => ?_
    exact bind_keeps (decLabel_keeps hr ha _ hu) fun _ _ _ hv => ih _ hv

/-! ### Encode -/

theorem dnsWrAll_keeps (hw : ∀ b s, P s → P (dnsWr8 b s).state) (bs : List Byte) {s : State} (h : P s) :
    P (dnsWrAll bs s).state := by
  induction bs generalizing s with
  | nil => exact h
  | cons b bs ih => exact bind_keeps (hw b s h) fun _ _ _ ht => ih ht

theorem encPointer_keeps (hw : ∀ b s, P s → P (dnsWr8 b s).state) (off : Word) {s : State} (h : P s) :
    P (encPointer off s).state := by
  unfold encPointer
  split
  · exact h
  · exact dnsWrAll_keeps hw _ h

theorem encLabel_keeps (hw : ∀ b s, P s → P (dnsWr8 b s).state) (label : List Byte) {s : State} (h : P s) :
    P (encLabel label s).state := by
  unfold encLabel
  split
  · exact h
  split
  · exact h
  exact bind_keeps (hw _ s h) fun _ _ _ ht => dnsWrAll_keeps hw _ ht

/-- Each turn of `DNS.ENC` looks up a suffix that is not empty and no longer than the name. -/
theorem encSuffix_keeps {nc : Bool} {n : Nat} (hw : ∀ b s, P s → P (dnsWr8 b s).state)
    (hl : ∀ rem s, rem ≠ [] → rem.length ≤ n → P s → P (encLookup nc rem s).state)
    (fuel : Nat) {rem : List Byte} (hne : rem ≠ []) (hlen : rem.length ≤ n) {s : State} (h : P s) :
    P (encSuffix nc fuel rem s).state := by
  induction fuel generalizing rem s with
  | zero => exact h
  | succ fuel ih =>
    refine bind_keeps (hl rem s hne hlen h) fun found t _ ht => ?_
    split
    · exact encPointer_keeps hw _ ht
    · refine bind_keeps (encLabel_keeps hw _ ht) fun _ u _ hu => ?_
      split
      · exact hw _ u hu
      · exact hu
      · next hnil hdrop =>
        refine ih hnil ?_ hu
        have := congrArg List.length hdrop
        simp only [List.length_drop, List.length_cons] at this
        omega

/-- What each written byte and each lookup of a suffix of the name keep, `DNS.ENC` keeps, once its window is found to lie
in `BUF` and its name in `NAME`. -/
theorem dnsEncode_keeps {nc : Bool} {s : State} (h : P s)
    (hw : s.dnsBase.toNat + s.dnsLen.toNat ≤ s.params.bufSize → ∀ b t, P t → P (dnsWr8 b t).state)
    (hl : s.nameLen.toNat ≤ s.params.nameMax →
      ∀ rem t, rem ≠ [] → rem.length ≤ s.nameLen.toNat → P t → P (encLookup nc rem t).state) :
    P (dnsEncode nc s).state := by
  rcases dnsWindow_cases s with ⟨hs, hfit⟩ | ⟨hs, _⟩ <;> simp only [dnsEncode, hs, bind_ok, bind_raise]
  · split
    · exact h
    split
    · exact hw hfit _ s h
    · next hmax hzero =>
      have hlen : (currentName s).length = s.nameLen.toNat := nameSlice_length s 0 _
      have hpos : s.nameLen.toNat ≠ 0 := fun e => hzero (BitVec.eq_of_toNat_eq e)
      exact encSuffix_keeps (hw hfit) (hl (by omega)) _ (List.ne_nil_of_length_pos (by omega)) hlen.le h
  · exact h

end

end Sys2Proof.Machine

/-! PROOF. The invariant of the machine (Sys2Proof/Safety.lean): it holds at reset, and every step keeps it, because every
operation on the state keeps it. -/

namespace Sys2Proof.Safety

open Sys2Proof Sys2Proof.Machine

/-! ### The units' values -/

/-- A byte absorbed leaves `HOLD` 0 when it leaves `ODD` 0 (40_internet_checksum.md R121). -/
theorem icsAbsorb_hold (u : IcsAcc) (b : Byte) (h : (icsAbsorb u b).odd = false) : (icsAbsorb u b).hold = 0#8 := by
  unfold icsAbsorb at *
  split <;> simp_all

theorem icsAbsorbAll_hold (bs : List Byte) {u : IcsAcc} (hu : u.odd = false → u.hold = 0#8) :
    (icsAbsorbAll u bs).odd = false → (icsAbsorbAll u bs).hold = 0#8 := by
  induction bs generalizing u with
  | nil => exact hu
  | cons b bs ih => exact ih (icsAbsorb_hold u b)

/-- Both sums of Adler-32 are remainders (42_adler32.md R170). -/
def AdlReduced (u : AdlAcc) : Prop := u.a.toNat < 65521 ∧ u.b.toNat < 65521

theorem adlStart_reduced : AdlReduced adlStart := by
  unfold AdlReduced; decide

theorem adlAbsorb_reduced (u : AdlAcc) (x : Byte) : AdlReduced (adlAbsorb u x) := by
  simp only [AdlReduced, adlAbsorb, adlerMod, BitVec.toNat_ofNat]
  omega

theorem adlAbsorbAll_reduced (bs : List Byte) {u : AdlAcc} (hu : AdlReduced u) : AdlReduced (adlAbsorbAll u bs) := by
  induction bs generalizing u with
  | nil => exact hu
  | cons b bs ih => exact ih (adlAbsorb_reduced u b)

/-! ### The registries -/

section

variable {κ β : Type} [DecidableEq κ] {lt : κ → κ → Bool} {cap : Option Nat} {m n : List (κ × β)} {k : κ} {v : β}

/-- `RegPut` never fills a registry beyond its capacity (43_dns_name.md R195). -/
theorem regPut_withinCap (o : KeyOrder lt) (hs : mapSorted lt m) (hc : WithinCap cap m.length)
    (h : regPut cap lt m k v = some n) : WithinCap cap n.length := by
  obtain rfl := regPut_some h
  rcases regPut_cases cap lt m k v with ⟨_, hp⟩ | ⟨hn, _⟩
  · cases hk : mapGet k m with
    | some w => rwa [mapPut_length_old o hs (by simp [hk])]
    | none =>
      have hroom : cap ≠ some m.length := by simpa [hk] using hp
      intro c hcap
      have hle := hc c hcap
      have hne : c ≠ m.length := fun e => hroom (e ▸ hcap)
      rw [mapPut_length_new lt v hk]
      omega
  · simp [hn] at h

/-- An entry of a registry after `RegPut` is the new one or an old one. -/
theorem regPut_forall {Q : κ × β → Prop} (hm : ∀ e ∈ m, Q e) (hnew : Q (k, v)) (h : regPut cap lt m k v = some n) :
    ∀ e ∈ n, Q e := by
  obtain rfl := regPut_some h
  intro e he
  rcases mem_of_mem_mapPut he with rfl | he
  · exact hnew
  · exact hm e he

theorem regPut_sorted (o : KeyOrder lt) (hs : mapSorted lt m) (h : regPut cap lt m k v = some n) : mapSorted lt n := by
  obtain rfl := regPut_some h
  exact mapPut_sorted o hs

end

/-! ### The named updates of the state -/

theorem errCodeByte_recorded (c : ErrCode) : errCodeByte c ∈ recordedCodes := by
  cases c <;> decide

section

variable {s : State} (h : Inv s)

include h

theorem Inv.withIcs {u : IcsAcc} (hu : u.odd = false → u.hold = 0#8) : Inv (s.withIcs u) := { h with hold := hu }

theorem Inv.setCrc (v : Word) : Inv (s.setCrc v) := { h with }

theorem Inv.withAdl {u : AdlAcc} (hu : AdlReduced u) : Inv (s.withAdl u) := { h with adler := hu }

theorem Inv.setDnsPos (v : Word) : Inv (s.setDnsPos v) := { h with }

theorem Inv.setNameLen (v : Word) : Inv (s.setNameLen v) := { h with }

theorem Inv.setRdata (v : Option Word) : Inv (s.setRdata v) := { h with }

theorem Inv.setPort (evs : List HostEvent) : Inv (s.setPort evs) := { h with }

theorem Inv.bufWrite {a : Nat} (ha : a < s.params.bufSize) (b : Byte) : Inv (bufWrite s a b) :=
  { h with buf := bufWrite_wf h.buf ha b }

theorem Inv.nameWrite {i : Nat} (hi : i < s.params.nameMax) (b : Byte) : Inv (nameWrite s i b) :=
  { h with name := nameWrite_wf h.name hi b }

theorem Inv.memWrite {a : Nat} {v : List Byte} (ha : a + v.length ≤ s.params.bufSize) : Inv (memWrite s a v) := by
  rw [memWrite_eq]
  exact { h with buf := memWrite_wf h.buf ha }

theorem Inv.clearRegistries : Inv ((s.setDreg []).setEreg []) :=
  { h with
    dreg := ⟨.nil, fun _ _ => Nat.zero_le _, by simp⟩
    ereg := ⟨.nil, fun _ _ => Nat.zero_le _, by simp⟩ }

theorem Inv.setDreg_regPut {k : Word} {nm : List Byte} {m : List (Word × List Byte)}
    (hnm : NameLegal s.params.nameMax nm) (hm : regPut s.params.regCap wordLt s.dreg k nm = some m) :
    Inv (s.setDreg m) :=
  let ⟨hs, hc, hn⟩ := h.dreg
  { h with dreg := ⟨regPut_sorted wordLt_order hs hm, regPut_withinCap wordLt_order hs hc hm, regPut_forall hn hnm hm⟩ }

theorem Inv.setEreg_regPut {nm : List Byte} {off : Word} {m : List (List Byte × Word)}
    (hnm : NameLegal s.params.nameMax nm) (hm : regPut s.params.regCap nameLt s.ereg nm off = some m) :
    Inv (s.setEreg m) :=
  let ⟨hs, hc, hn⟩ := h.ereg
  { h with ereg := ⟨regPut_sorted nameLt_order hs hm, regPut_withinCap nameLt_order hs hc hm, regPut_forall hn hnm hm⟩ }

theorem Inv.takeFault (c : ErrCode) (pos cmd : Word) : Inv (takeFault s c pos cmd) := by
  rcases takeFault_cases s c pos cmd with ⟨_, e⟩ | ⟨_, e⟩ <;> rw [e]
  · exact h
  · exact { h with faultRegs := ⟨nofun, fun _ => errCodeByte_recorded c⟩ }

theorem Inv.nameMax_le : s.params.nameMax ≤ 4096 := by
  have := h.params
  simp only [Params.wf, Bool.and_eq_true, decide_eq_true_eq] at this
  obtain ⟨⟨_, hmax⟩, _⟩ := this
  exact hmax

end

/-! ### Reset -/

/-- With every register at its reset value and both registries empty, only the parameters and the two memories are left to
check (10_state.md R52). -/
theorem inv_of_registers_reset {u : Surroundings} {name buf : List Host.Cell} (hp : u.params.wf = true)
    (hb : Memory.wf u.params.bufSize buf) (hn : Memory.wf u.params.nameMax name) :
    Inv { toEngineState := { EngineState.resetWith u.params with name := name, buf := buf }, toSurroundings := u } where
  params := hp
  buf := hb
  name := hn
  faultRegs := ⟨fun _ => ⟨rfl, rfl, rfl⟩, nofun⟩
  hold _ := rfl
  adler := ⟨(by decide : (1#16).toNat < 65521), (by decide : (0#16).toNat < 65521)⟩
  dreg := ⟨.nil, fun _ _ => Nat.zero_le _, nofun⟩
  ereg := ⟨.nil, fun _ _ => Nat.zero_le _, nofun⟩

theorem inv_resetWith {p : Params} (hp : p.wf = true) : Inv (State.resetWith p) :=
  inv_of_registers_reset (u := { params := p, epoch := 0, port := [], rdata := none }) hp (reset_buf_wf p) (reset_name_wf p)

theorem Inv.softReset {s : State} (h : Inv s) : Inv (softReset s) :=
  inv_of_registers_reset h.params (softReset_buf_wf h.buf) (softReset_name_wf h.name)

theorem Inv.hardReset {s : State} (h : Inv s) : Inv (hardReset s) :=
  inv_of_registers_reset (u := { s.toSurroundings with epoch := s.epoch + 1 }) h.params (hardReset_buf_wf s)
    (hardReset_name_wf s)

/-! ### `DNS.DEC` -/

/-- What `DNS.DEC` keeps besides the invariant while it reads a name: the name lies in `NAME`, and each suffix that awaits
registration in `k` begins before the name's end, so that it will not be empty. -/
structure Decoding (k : List (Word × Nat)) (s : State) : Prop where
  inv : Inv s
  nameLen_le : s.nameLen.toNat ≤ s.params.nameMax
  awaiting : ∀ e ∈ k, e.2 < s.nameLen.toNat

/-- The length after a byte has been appended does not wrap (43_dns_name.md R194). -/
theorem nameLen_succ_toNat {s : State} (h : Inv s) (hlt : s.nameLen.toNat < s.params.nameMax) :
    (s.nameLen + 1#32).toNat = s.nameLen.toNat + 1 := by
  have := h.nameMax_le
  simp only [BitVec.toNat_add, BitVec.toNat_ofNat]
  omega

theorem Decoding.dnsRd8 {k : List (Word × Nat)} (s : State) (h : Decoding k s) : Decoding k (dnsRd8 s).state := by
  rcases dnsRd8_cases s with ⟨e, _⟩ | ⟨e, _⟩ <;> rw [e]
  · exact { h with inv := h.inv.setDnsPos _ }
  · exact h

/-- A byte appended lengthens the name: a suffix that would begin at it is not empty any more. -/
theorem Decoding.push {k : List (Word × Nat)} {s : State} (h : Decoding k s) (hlt : s.nameLen.toNat < s.params.nameMax)
    (c : Byte) (start : Word) :
    Decoding ((start, s.nameLen.toNat) :: k) ((nameWrite s s.nameLen.toNat c).setNameLen (s.nameLen + 1#32)) where
  inv := (h.inv.nameWrite hlt c).setNameLen _
  nameLen_le := by
    rw [setNameLen_nameLen, nameLen_succ_toNat h.inv hlt]
    exact hlt
  awaiting e he := by
    rw [setNameLen_nameLen, nameLen_succ_toNat h.inv hlt]
    rcases List.mem_cons.mp he with rfl | he
    · exact Nat.lt_succ_self _
    · exact (h.awaiting e he).trans (Nat.lt_succ_self _)

theorem Decoding.tail {e : Word × Nat} {k : List (Word × Nat)} {s : State} (h : Decoding (e :: k) s) : Decoding k s :=
  { h with awaiting := fun e' he' => h.awaiting e' (List.mem_cons_of_mem _ he') }

theorem Decoding.nameAppend {k : List (Word × Nat)} (c : Byte) (s : State) (h : Decoding k s) :
    Decoding k (nameAppend c s).state := by
  rcases nameAppend_cases c s with ⟨e, hlt⟩ | ⟨e, _⟩ <;> rw [e]
  · exact (h.push hlt c 0#32).tail
  · exact h

/-- A label of at least one byte leaves the suffix that begins with it not empty. -/
theorem Decoding.decLabel {k : List (Word × Nat)} {n : Nat} {s t : State} (h : Decoding k s) (start : Word)
    (ht : decLabel (n + 1) s = .ok () t) : Decoding ((start, s.nameLen.toNat) :: k) t := by
  obtain ⟨c, u, hu, ht⟩ := bind_eq_ok ht
  obtain ⟨⟨⟩, v, hv, ht⟩ := bind_eq_ok ht
  have hlen : u.nameLen = s.nameLen := by
    rcases dnsRd8_cases s with ⟨e, _⟩ | ⟨e, _⟩ <;> rw [e] at hu <;> cases hu
    rfl
  have hdu : Decoding k u := by simpa [hu] using h.dnsRd8
  have hdv : Decoding ((start, s.nameLen.toNat) :: k) v := by
    rcases nameAppend_cases c u with ⟨e, hlt⟩ | ⟨e, _⟩ <;> rw [e] at hv <;> cases hv
    exact hlen ▸ hdu.push hlt c start
  simpa [ht] using decLabel_keeps Decoding.dnsRd8 Decoding.nameAppend n hdv

/-- Every suffix that `DNS.DEC` is left to register at the name's end is not empty. -/
theorem Decoding.decItems {fuel : Nat} {k l : List (Word × Nat)} {s t : State} (h : Decoding k s)
    (ht : decItems fuel k s = .ok l t) : Decoding l t := by
  induction fuel generalizing k s with
  | zero => cases ht
  | succ fuel ih =>
    obtain ⟨len, u, hu, ht⟩ := bind_eq_ok ht
    have hdu : Decoding k u := by simpa [hu] using h.dnsRd8
    split at ht
    · cases ht
      exact hdu
    next hzero =>
    split at ht
    · obtain ⟨⟨⟩, v, hv, ht⟩ := bind_eq_ok ht
      cases ht
      simpa [hv] using decPointer_keeps Decoding.dnsRd8 Decoding.nameAppend len hdu
    split at ht
    · cases ht
    obtain ⟨⟨⟩, v, hv, ht⟩ := bind_eq_ok ht
    obtain ⟨⟨⟩, w, hw, ht⟩ := bind_eq_ok ht
    have hdv : Decoding k v := by simpa [hv] using nameSeparator_keeps Decoding.nameAppend hdu
    obtain ⟨n, hn⟩ : ∃ n, len.toNat = n + 1 :=
      Nat.exists_eq_succ_of_ne_zero fun e => hzero (BitVec.eq_of_toNat_eq e)
    exact ih (hdv.decLabel _ (hn ▸ hw)) ht

theorem Decoding.decRegister {k : List (Word × Nat)} {s : State} (h : Decoding k s) : Inv (decRegister k s).state := by
  induction k generalizing s with
  | nil => exact h.inv
  | cons e k ih =>
    obtain ⟨start, idx⟩ := e
    have hidx : idx < s.nameLen.toNat := h.awaiting _ List.mem_cons_self
    have hle := h.nameLen_le
    simp only [Machine.decRegister]
    split
    · exact h.inv
    · next m hm =>
      exact ih { h.tail with inv := h.inv.setDreg_regPut (by rw [NameLegal, nameSlice_length]; omega) hm }

theorem Inv.dnsDecode {s : State} (h : Inv s) : Inv (dnsDecode s).state := by
  rcases dnsWindow_cases s with ⟨e, _⟩ | ⟨e, _⟩ <;> simp only [Machine.dnsDecode, e, bind_ok, bind_raise]
  · have h0 : Decoding [] (s.setNameLen 0#32) := ⟨h.setNameLen _, Nat.zero_le _, nofun⟩
    refine bind_keeps (decItems_keeps Decoding.dnsRd8 Decoding.nameAppend _ [] h0).inv fun k t ht _ => ?_
    exact (h0.decItems ht).decRegister
  · exact h

/-! ### `DNS.ENC` -/

/-- What `DNS.ENC` keeps besides the invariant: the window and the parameters of the state `s` it began at. -/
structure Encoding (s t : State) : Prop where
  inv : Inv t
  dnsBase : t.dnsBase = s.dnsBase
  dnsLen : t.dnsLen = s.dnsLen
  params : t.params = s.params

theorem Encoding.dnsWr8 {s : State} (hfit : s.dnsBase.toNat + s.dnsLen.toNat ≤ s.params.bufSize) (b : Byte) (t : State)
    (h : Encoding s t) : Encoding s (dnsWr8 b t).state := by
  rcases dnsWr8_cases b t with ⟨e, hlt⟩ | ⟨e, _⟩ <;> rw [e]
  · rw [← h.dnsBase, ← h.dnsLen, ← h.params] at hfit
    exact { h with inv := (h.inv.bufWrite (by rw [dnsAddr]; omega) b).setDnsPos _ }
  · exact h

theorem Encoding.encLookup {nc : Bool} {s : State} (hmax : s.nameLen.toNat ≤ s.params.nameMax) (rem : List Byte)
    (t : State) (hne : rem ≠ []) (hlen : rem.length ≤ s.nameLen.toNat) (h : Encoding s t) :
    Encoding s (encLookup nc rem t).state := by
  have hlegal : NameLegal t.params.nameMax rem := ⟨List.length_pos_of_ne_nil hne, h.params ▸ hlen.trans hmax⟩
  unfold Machine.encLookup
  split
  · exact h
  split
  · exact h
  split
  · exact h
  · next m hm => exact { h with inv := h.inv.setEreg_regPut hlegal hm }

theorem Inv.dnsEncode {s : State} (h : Inv s) (nc : Bool) : Inv (dnsEncode nc s).state :=
  (dnsEncode_keeps (P := Encoding s) ⟨h, rfl, rfl, rfl⟩ Encoding.dnsWr8 Encoding.encLookup).inv

/-! ### A command -/

theorem inv_of_finish {word : Word} {r : Res Unit} {t : State} (ht : finish word r = .next t) (h : Inv r.state) : Inv t := by
  rcases finish_cases word r with ⟨u, rfl, e⟩ | ⟨c, pos, u, rfl, e⟩ <;> rw [e] at ht <;> cases ht
  · exact h
  · exact h.takeFault c pos word

theorem inv_of_next {s t : State} (ht : (.next s : Host.Outcome State Fault Refusal) = .next t) (h : Inv s) : Inv t := by
  cases ht
  exact h

theorem Inv.icsAbsorbAll {s : State} (h : Inv s) (bs : List Byte) : Inv (s.withIcs (icsAbsorbAll s.ics bs)) :=
  h.withIcs (icsAbsorbAll_hold bs h.hold)

theorem Inv.adlAbsorbAll {s : State} (h : Inv s) (bs : List Byte) : Inv (s.withAdl (adlAbsorbAll s.adl bs)) :=
  h.withAdl (adlAbsorbAll_reduced bs h.adler)

theorem Inv.exec {i : Instr} {s t : State} (h : Inv s) (ht : exec i s = .next t) : Inv t := by
  cases i with
  | nop => exact inv_of_next ht h
  | sysReset => exact inv_of_next ht h.softReset
  | icsInit => exact inv_of_next ht (h.withIcs fun _ => rfl)
  | icsAdd => exact inv_of_finish ht (bind_keeps (by rwa [rangeOperand_state]) fun bs _ _ hu => hu.icsAbsorbAll bs)
  | icsAddb imm8 => exact inv_of_next ht (h.withIcs (icsAbsorb_hold _ imm8))
  | icsPh => exact inv_of_finish ht (bind_keeps (by rwa [phOperand_state]) fun bs _ _ hu => hu.icsAbsorbAll bs)
  | icsPut =>
    refine inv_of_finish ht ?_
    split
    · next hfit => exact h.memWrite (of_decide_eq_true hfit)
    · exact h
  | crcInit => exact inv_of_next ht (h.setCrc _)
  | crcAdd => exact inv_of_finish ht (bind_keeps (by rwa [rangeOperand_state]) fun _ _ _ hu => hu.setCrc _)
  | crcAddb imm8 => exact inv_of_next ht (h.setCrc _)
  | adlInit => exact inv_of_next ht (h.withAdl adlStart_reduced)
  | adlAdd => exact inv_of_finish ht (bind_keeps (by rwa [rangeOperand_state]) fun bs _ _ hu => hu.adlAbsorbAll bs)
  | adlAddb imm8 => exact inv_of_next ht (h.withAdl (adlAbsorb_reduced _ imm8))
  | dnsClr => exact inv_of_next ht h.clearRegistries
  | dnsDec => exact inv_of_finish ht h.dnsDecode
  | dnsEnc nc => exact inv_of_finish ht (h.dnsEncode nc)

/-! ### A host event -/

theorem Inv.commandWrite {s t : State} {w : Word} (h : Inv s) (ht : commandWrite s w = .next t) : Inv t := by
  unfold Machine.commandWrite at ht
  split at ht
  · split at ht
    · exact h.exec ht
    · cases ht
      exact h
  · split at ht
    · cases ht
      exact h.takeFault _ _ _
    · exact h.exec ht

/-- A window target lies in its memory (20_memory.md R62). -/
def TargetInside (p : Params) : Target → Prop
  | .reg _ _ => True
  | .nameByte i => i < p.nameMax
  | .bufByte a => a < p.bufSize

theorem accessTarget_inside {p : Params} {width : Nat} {addr : Word} {t : Target}
    (h : accessTarget p width addr = some t) : TargetInside p t := by
  unfold accessTarget at h
  split_ifs at h with h32 h8 hname hbuf
  · obtain ⟨_, _, rfl⟩ := Option.map_eq_some_iff.mp h
    trivial
  · cases h
    simp only [TargetInside]
    omega
  · cases h
    simp only [TargetInside]
    omega

theorem Inv.writeReg {s : State} (h : Inv s) (r : Reg) (v : Word) : Inv (writeReg s r v) := by
  cases r <;> exact { h with }

theorem Inv.storeTarget {s : State} {t : Target} (h : Inv s) (ht : TargetInside s.params t) (data : Word) :
    Inv (storeTarget s t data) := by
  cases t with
  | reg r access => exact h.writeReg r data
  | nameByte i => exact h.nameWrite ht _
  | bufByte a => exact h.bufWrite ht _

theorem Inv.hostRead {s : State} (h : Inv s) (width : Nat) (addr : Word) : Inv (hostRead s width addr) := by
  unfold Machine.hostRead
  split
  · exact h.setRdata _
  · exact (h.takeFault _ _ _).setRdata _

theorem Inv.hostWrite {s t : State} {width : Nat} {addr data : Word} (h : Inv s)
    (ht : hostWrite s width addr data = .next t) : Inv t := by
  unfold Machine.hostWrite at ht
  split at ht
  · cases ht
    exact h.takeFault _ _ _
  · exact h.commandWrite ht
  · next target _ htarget =>
    cases ht
    split
    · exact h
    · exact h.storeTarget (accessTarget_inside (Option.filter_eq_some_iff.mp htarget).1) data

theorem Inv.hostEvent {s t : State} {ev : HostEvent} (h : Inv s) (ht : hostEvent s ev = .next t) : Inv t := by
  cases ev with
  | read width addr =>
    cases ht
    exact h.hostRead width addr
  | write width addr data => exact h.hostWrite ht
  | hardReset =>
    cases ht
    exact h.hardReset

theorem Inv.step {s t : State} (h : Inv s) (ht : step s = .next t) : Inv t := by
  cases hport : s.port with
  | nil =>
    rw [step_of_port_nil hport] at ht
    cases ht
    exact h
  | cons ev rest =>
    rw [step_of_port_cons hport] at ht
    exact Inv.hostEvent ((h.setPort rest).setRdata none) ht

end Sys2Proof.Safety

namespace Sys2Proof.Claims

open Sys2Proof Sys2Proof.Machine Sys2Proof.Safety

/-- Settles O59: a step serves at most one host event, and each of them is made of operations that keep the invariant;
for `DNS.DEC` and `DNS.ENC` these are `Decoding` and `Encoding`. -/
theorem everyStepKeepsInv : Obligations.EveryStepKeepsInv :=
  fun _ _ h ht => h.step ht

/-- Settles O60: at reset both memories and both registries are empty and every register is 0, but `A`, which is 1, and
`CRC`. -/
theorem invHoldsAtReset : Obligations.InvHoldsAtReset :=
  fun _ hp => inv_resetWith hp

end Sys2Proof.Claims

/-! PROOF. What the host reads at every offset of the register map (10_state.md R52): a read at an offset returns the view
of the register mapped there, and each view is the number that its rule gives. -/

namespace Sys2Proof.Machine

open Sys2Proof Sys2Proof.Claims

/-! ### A read at a mapped offset -/

theorem registerMap_sorted : mapSorted natLt registerMap := by
  decide

theorem registerMap_offset_lt {e : Nat × Reg × Access} (h : e ∈ registerMap) : e.1 < 2 ^ 32 := by
  revert e
  decide

theorem accessTarget_of_mem {e : Nat × Reg × Access} (h : e ∈ registerMap) (p : Params) :
    accessTarget p 32 (BitVec.ofNat 32 e.1) = some (.reg e.2.1 e.2.2) := by
  have hoff : (BitVec.ofNat 32 e.1).toNat = e.1 := Nat.mod_eq_of_lt (registerMap_offset_lt h)
  have hget : mapGet e.1 registerMap = some e.2 := mapGet_of_mem natLt_order registerMap_sorted h
  simp [accessTarget, hoff, hget]

theorem readReg_serving (s : State) (evs : List HostEvent) (r : Reg) : readReg (serving s evs) r = readReg s r := by
  cases r <;> rfl

/-- A 32-bit read at a mapped offset returns the register's view and changes nothing else (20_memory.md R61, R72). -/
theorem step_read_register {e : Nat × Reg × Access} (h : e ∈ registerMap) (s : State) :
    step (withEvent s (.read 32 (BitVec.ofNat 32 e.1))) = .next { s with rdata := some (readReg s e.2.1) } := by
  rw [step_of_port_cons rfl, hostEvent, hostRead, accessTarget_of_mem h]
  simp only [readTarget, readReg_serving]
  rfl

/-! ### The views as numbers -/

theorem viewWord_of_lt {n : Nat} (h : n < 2 ^ 32) : viewWord n = BitVec.ofNat 32 n := if_pos h

theorem viewWord_toNat {n : Nat} (h : n < 2 ^ 32) : (viewWord n).toNat = n := by
  rw [viewWord_of_lt h]
  exact Nat.mod_eq_of_lt h

theorem statusWord_toNat (s : State) : (statusWord s).toNat = if s.fault then 1 else 0 := by
  unfold statusWord
  split <;> rfl

theorem append_toNat {m n : Nat} (x : BitVec m) (y : BitVec n) : (x ++ y).toNat = x.toNat * 2 ^ n + y.toNat := by
  rw [BitVec.toNat_append, ← Nat.shiftLeft_add_eq_or_of_lt y.isLt, Nat.shiftLeft_eq]

/-- The bits of `ICS_SUM`: `ODD` in bit 24, `HOLD` in bits 23:16, `SUM` in bits 15:0 (10_state.md R30). -/
theorem icsSumView_toNat (odd : Bool) (hold : Byte) (sum : Half) :
    ((BitVec.ofBool odd ++ hold) ++ sum).toNat =
      (if odd then 1 else 0) * 2 ^ 24 + hold.toNat * 2 ^ 16 + sum.toNat := by
  rw [append_toNat, append_toNat]
  cases odd with
  | false => simp
  | true => simp; omega

/-- `ICS_RESULT` is the complement of the padded sum (10_state.md R31). -/
theorem icsResult_toNat (u : IcsAcc) :
    (icsResult u).toNat = 0xFFFF - (if u.odd then add1c u.sum (u.hold ++ 0#8) else u.sum).toNat := by
  simp [icsResult, BitVec.toNat_not]

/-- `ADL_SUM`: `B` in bits 31:16, `A` in bits 15:0 (10_state.md R39). -/
theorem adlValue_toNat (u : AdlAcc) : (adlValue u).toNat = u.b.toNat * 2 ^ 16 + u.a.toNat := append_toNat u.b u.a

theorem regCapView_toNat {s : State} (h : capFits s.params) :
    (readReg s .cfgRegCap).toNat = s.params.regCap.getD 0xFFFFFFFF := by
  unfold readReg
  cases hc : s.params.regCap with
  | none => rfl
  | some n => exact viewWord_toNat (h n hc)

theorem Params.sizes_lt {p : Params} (h : p.wf = true) : p.bufSize < 2 ^ 32 ∧ p.nameMax < 2 ^ 32 := by
  simp only [Params.wf, Bool.and_eq_true, decide_eq_true_eq] at h
  obtain ⟨⟨⟨⟨_, hbuf⟩, _⟩, hname⟩, _⟩ := h
  omega

/-- The register map with the number that a read of each register returns. -/
theorem registerViews_eq {s : State} (hp : s.params.wf = true) (hc : capFits s.params) (hd : s.dreg.length < 2 ^ 32)
    (he : s.ereg.length < 2 ^ 32) :
    registerViews s = registerMap.map fun e => (e.1, (readReg s e.2.1).toNat) := by
  obtain ⟨hbuf, hname⟩ := Params.sizes_lt hp
  simp only [registerViews, registerMap, List.map_cons, List.map_nil, regCapView_toNat hc]
  simp (disch := decide) only [readReg, statusWord_toNat, viewWord_toNat hd, viewWord_toNat he, viewWord_toNat hbuf,
    viewWord_toNat hname, icsSumView_toNat, adlValue_toNat, BitVec.toNat_setWidth_of_le, icsResult_toNat]
  rfl

/-! ### The views right after reset -/

theorem resetWith_params (p : Params) : (State.resetWith p).params = p := rfl

theorem resetWith_icsSumView (p : Params) : readReg (State.resetWith p) .icsSum = 0x00000000#32 :=
  (by decide : ((BitVec.ofBool false ++ 0#8) ++ 0#16).setWidth 32 = 0x00000000#32)

theorem resetWith_icsResultView (p : Params) : readReg (State.resetWith p) .icsResult = 0x0000FFFF#32 :=
  (by decide : (icsResult icsStart).setWidth 32 = 0x0000FFFF#32)

theorem resetWith_adlSumView (p : Params) : readReg (State.resetWith p) .adlSum = 0x00000001#32 :=
  (by decide : adlValue adlStart = 0x00000001#32)

/-- The register map with what a read of each register returns right after reset. -/
theorem resetReads_eq {p : Params} (hp : p.wf = true) (hc : capFits p) :
    resetReads p = registerMap.map fun e => (e.1, readReg (State.resetWith p) e.2.1) := by
  obtain ⟨hbuf, hname⟩ := Params.sizes_lt hp
  have hbufView : readReg (State.resetWith p) .cfgBufSize = BitVec.ofNat 32 p.bufSize := viewWord_of_lt hbuf
  have hnameView : readReg (State.resetWith p) .cfgNameMax = BitVec.ofNat 32 p.nameMax := viewWord_of_lt hname
  simp only [resetReads, registerMap, List.map_cons, List.map_nil, resetWith_icsSumView, resetWith_icsResultView,
    resetWith_adlSumView, hbufView, hnameView]
  cases hr : p.regCap with
  | none =>
    have hcapView : readReg (State.resetWith p) .cfgRegCap = 0xFFFFFFFF#32 := by
      rw [readReg, resetWith_params, hr]
    rw [hcapView]
    rfl
  | some n =>
    have hcapView : readReg (State.resetWith p) .cfgRegCap = BitVec.ofNat 32 n := by
      rw [readReg, resetWith_params, hr]
      exact viewWord_of_lt (hc n hr)
    rw [hcapView]
    rfl

end Sys2Proof.Machine

namespace Sys2Proof.Claims

open Sys2Proof Sys2Proof.Machine

/-- Settles O10: the statement's table is the register map with the number of each view. -/
theorem registersShowState : Obligations.RegistersShowState := by
  intro s hp hc hd he e hmem
  rw [registerViews_eq hp hc hd he] at hmem
  obtain ⟨m, hm, rfl⟩ := List.mem_map.mp hmem
  exact ⟨_, step_read_register hm s, rfl⟩

/-- Settles O1: the statement's table is the register map with each view at reset. -/
theorem resetRegisterReads : Obligations.ResetRegisterReads := by
  intro p hp hc
  refine ⟨fun e hmem => ?_, rfl, rfl, fun _ => rfl, fun _ => rfl⟩
  rw [resetReads_eq hp hc] at hmem
  obtain ⟨m, hm, rfl⟩ := List.mem_map.mp hmem
  exact step_read_register hm _

end Sys2Proof.Claims

/-! PROOF. What each command can change (10_state.md R28 to R49): the registers of its unit, and the four fault registers
when it raises a fault. -/

namespace Sys2Proof.Machine

open Sys2Proof Sys2Proof.Claims

/-- `t` differs from `s` in the four fault registers at most. -/
def FaultFrame (s t : State) : Prop :=
  t = { s with fault := t.fault, errCode := t.errCode, errPos := t.errPos, errCmd := t.errCmd }

/-- `t` differs from `s` in what the pseudocode of a command may change, before any fault is taken. -/
def UnitFrame : Instr → State → State → Prop
  | .nop, s, t => t = s
  | .sysReset, s, t => t = softReset s
  | .icsInit, s, t | .icsAdd, s, t | .icsAddb _, s, t | .icsPh, s, t =>
    t = { s with sum := t.sum, hold := t.hold, odd := t.odd }
  | .icsPut, s, t => t = { s with buf := t.buf }
  | .crcInit, s, t | .crcAdd, s, t | .crcAddb _, s, t => t = { s with crc := t.crc }
  | .adlInit, s, t | .adlAdd, s, t | .adlAddb _, s, t => t = { s with adlA := t.adlA, adlB := t.adlB }
  | .dnsClr, s, t => t = { s with dreg := t.dreg, ereg := t.ereg }
  | .dnsDec, s, t => t = { s with dnsPos := t.dnsPos, name := t.name, nameLen := t.nameLen, dreg := t.dreg }
  | .dnsEnc nc, s, t => EncFrame s t ∧ (nc = true → t.ereg = s.ereg)

/-- A command whose operand is fetched without a change ends in the state it began at, or in what it makes of that state
and its operand. -/
theorem bind_keeps_of_state {α β : Type} {P : State → Prop} {r : Res α} {s : State} {f : α → State → Res β}
    (hs : r.state = s) (h : P s) (hf : ∀ a, P (f a s).state) : P (r.bind f).state := by
  subst hs
  cases r with
  | ok a t => exact hf a
  | raise c pos t => exact h

theorem takeFault_faultFrame (s : State) (c : ErrCode) (pos cmd : Word) : FaultFrame s (takeFault s c pos cmd) := by
  rcases takeFault_cases s c pos cmd with ⟨_, e⟩ | ⟨_, e⟩ <;> rw [e] <;> rfl

/-- A command ends in the state that its pseudocode left, but for the fault registers. -/
theorem finish_faultFrame {word : Word} {r : Res Unit} {t : State} (ht : finish word r = .next t) :
    FaultFrame r.state t := by
  rcases finish_cases word r with ⟨u, rfl, e⟩ | ⟨c, pos, u, rfl, e⟩ <;> rw [e] at ht <;> cases ht
  · rfl
  · exact takeFault_faultFrame u c pos word

/-- With `NC = 1` the encode registry is not written (43_dns_name.md R201). -/
theorem dnsEncode_nc_ereg (s : State) : (dnsEncode true s).state.ereg = s.ereg := by
  refine dnsEncode_keeps (P := fun t => t.ereg = s.ereg) rfl (fun _ b t ht => ?_) fun _ rem t _ _ ht => ht
  rcases dnsWr8_cases b t with ⟨e, _⟩ | ⟨e, _⟩ <;> rw [e] <;> exact ht

theorem faultFrame_of_next {s t : State} (ht : (.next s : Host.Outcome State Fault Refusal) = .next t) :
    FaultFrame s t := by
  cases ht
  rfl

/-- What every command can change: what its pseudocode changes, and the fault registers. -/
theorem exec_frame {i : Instr} {s t : State} (ht : exec i s = .next t) : ∃ u, FaultFrame u t ∧ UnitFrame i s u := by
  cases i with
  | nop => exact ⟨_, faultFrame_of_next ht, rfl⟩
  | sysReset => exact ⟨_, faultFrame_of_next ht, rfl⟩
  | icsInit => exact ⟨_, faultFrame_of_next ht, rfl⟩
  | icsAdd =>
    exact ⟨_, finish_faultFrame ht,
      bind_keeps_of_state (P := UnitFrame .icsAdd s) (rangeOperand_state s) rfl fun _ => rfl⟩
  | icsAddb imm8 => exact ⟨_, faultFrame_of_next ht, rfl⟩
  | icsPh =>
    exact ⟨_, finish_faultFrame ht,
      bind_keeps_of_state (P := UnitFrame .icsPh s) (phOperand_state s) rfl fun _ => rfl⟩
  | icsPut =>
    refine ⟨_, finish_faultFrame ht, ?_⟩
    split
    · exact memWrite_eq s _ _
    · rfl
  | crcInit => exact ⟨_, faultFrame_of_next ht, rfl⟩
  | crcAdd =>
    exact ⟨_, finish_faultFrame ht,
      bind_keeps_of_state (P := UnitFrame .crcAdd s) (rangeOperand_state s) rfl fun _ => rfl⟩
  | crcAddb imm8 => exact ⟨_, faultFrame_of_next ht, rfl⟩
  | adlInit => exact ⟨_, faultFrame_of_next ht, rfl⟩
  | adlAdd =>
    exact ⟨_, finish_faultFrame ht,
      bind_keeps_of_state (P := UnitFrame .adlAdd s) (rangeOperand_state s) rfl fun _ => rfl⟩
  | adlAddb imm8 => exact ⟨_, faultFrame_of_next ht, rfl⟩
  | dnsClr => exact ⟨_, faultFrame_of_next ht, rfl⟩
  | dnsDec => exact ⟨_, finish_faultFrame ht, dnsDecode_frame s⟩
  | dnsEnc nc =>
    refine ⟨_, finish_faultFrame ht, dnsEncode_frame nc s, fun hnc => ?_⟩
    rw [hnc]
    exact dnsEncode_nc_ereg s

end Sys2Proof.Machine

namespace Sys2Proof.Claims

open Sys2Proof Sys2Proof.Machine

/-- Settles O43: read off from what the pseudocode of each command changes. -/
theorem unitsAreIndependent : Obligations.UnitsAreIndependent := by
  intro i s t ht hreset
  obtain ⟨u, hf, hu⟩ := exec_frame ht
  rw [hf]
  cases i with
  | sysReset => exact absurd rfl hreset
  | dnsEnc nc =>
    obtain ⟨he, hnc⟩ := hu
    rw [he]
    cases nc with
    | false => simp [changesIcs, changesCrc, changesAdl, writesBuf]
    | true => simp [changesIcs, changesCrc, changesAdl, writesBuf, hnc]
  | _ => rw [hu]; simp [changesIcs, changesCrc, changesAdl, writesBuf]

end Sys2Proof.Claims

/-! PROOF. No operation of the engine reads the host events still to come (log 1): each of them commutes with a change of
`port`. -/

namespace Sys2Proof.Machine

open Sys2Proof

/-! ### The pieces of a command -/

section

variable {α β : Type}

/-- A piece of pseudocode with other host events to come at its end. -/
def Res.setPort (evs : List HostEvent) : Res α → Res α
  | .ok a s => .ok a (s.setPort evs)
  | .raise c pos s => .raise c pos (s.setPort evs)

@[simp] theorem Res.setPort_ok (evs : List HostEvent) (a : α) (s : State) :
    (Res.ok a s).setPort evs = .ok a (s.setPort evs) := rfl

@[simp] theorem Res.setPort_raise (evs : List HostEvent) (c : ErrCode) (pos : Word) (s : State) :
    (Res.raise c pos s : Res α).setPort evs = .raise c pos (s.setPort evs) := rfl

/-- A sequence of pieces that do not read the port does not read it. -/
theorem bind_setPort {evs : List HostEvent} {r r' : Res α} {f f' : α → State → Res β} (hr : r' = r.setPort evs)
    (hf : ∀ a s, f' a (s.setPort evs) = (f a s).setPort evs) : r'.bind f' = (r.bind f).setPort evs := by
  subst hr
  cases r with
  | ok a s => exact hf a s
  | raise c pos s => rfl

/-- A test that does not read the port, of two pieces that do not read it: `g` puts other events in the port. -/
theorem ite_setPort {g : α → β} {c : Prop} [Decidable c] {r q : α} {r' q' : β} (hr : r' = g r) (hq : q' = g q) :
    (if c then r' else q') = g (if c then r else q) := by
  subst hr hq
  split <;> rfl

end

section

variable (evs : List HostEvent)

@[simp] theorem bufRead_setPort (s : State) (a : Nat) : bufRead (s.setPort evs) a = bufRead s a := rfl

@[simp] theorem nameRead_setPort (s : State) (i : Nat) : nameRead (s.setPort evs) i = nameRead s i := rfl

@[simp] theorem memRead_setPort (s : State) (a n : Nat) : memRead (s.setPort evs) a n = memRead s a n :=
  memRead_congr fun _ _ => rfl

@[simp] theorem nameSlice_setPort (s : State) (i n : Nat) : nameSlice (s.setPort evs) i n = nameSlice s i n :=
  nameSlice_congr fun _ _ => rfl

theorem memWrite_setPort (s : State) (a : Nat) (v : List Byte) :
    memWrite (s.setPort evs) a v = (memWrite s a v).setPort evs := by
  induction v generalizing s a with
  | nil => rfl
  | cons b v ih => exact ih (bufWrite s a b) (a + 1)

theorem takeFault_setPort (s : State) (c : ErrCode) (pos cmd : Word) :
    takeFault (s.setPort evs) c pos cmd = (takeFault s c pos cmd).setPort evs :=
  ite_setPort (g := fun t : State => t.setPort evs) rfl rfl

theorem rangeOperand_setPort (s : State) : rangeOperand (s.setPort evs) = (rangeOperand s).setPort evs := by
  simp only [rangeOperand, rangeBytes, memRead_setPort]
  exact ite_setPort rfl rfl

theorem phOperand_setPort (s : State) : phOperand (s.setPort evs) = (phOperand s).setPort evs :=
  ite_setPort rfl (ite_setPort rfl (ite_setPort rfl (ite_setPort rfl rfl)))

theorem dnsWindow_setPort (s : State) : dnsWindow (s.setPort evs) = (dnsWindow s).setPort evs :=
  ite_setPort rfl rfl

theorem dnsRd8_setPort (s : State) : dnsRd8 (s.setPort evs) = (dnsRd8 s).setPort evs :=
  ite_setPort rfl rfl

theorem dnsWr8_setPort (b : Byte) (s : State) : dnsWr8 b (s.setPort evs) = (dnsWr8 b s).setPort evs :=
  ite_setPort rfl rfl

theorem dnsWrAll_setPort (bs : List Byte) (s : State) :
    dnsWrAll bs (s.setPort evs) = (dnsWrAll bs s).setPort evs := by
  induction bs generalizing s with
  | nil => rfl
  | cons b bs ih => exact bind_setPort (dnsWr8_setPort evs b s) fun _ t => ih t

theorem nameAppend_setPort (c : Byte) (s : State) :
    nameAppend c (s.setPort evs) = (nameAppend c s).setPort evs :=
  ite_setPort rfl rfl

theorem nameAppendAll_setPort (cs : List Byte) (s : State) :
    nameAppendAll cs (s.setPort evs) = (nameAppendAll cs s).setPort evs := by
  induction cs generalizing s with
  | nil => rfl
  | cons c cs ih => exact bind_setPort (nameAppend_setPort evs c s) fun _ t => ih t

/-! ### `DNS.DEC` -/

theorem nameSeparator_setPort (s : State) : nameSeparator (s.setPort evs) = (nameSeparator s).setPort evs :=
  ite_setPort rfl (nameAppend_setPort evs dot s)

theorem decLabel_setPort (n : Nat) (s : State) : decLabel n (s.setPort evs) = (decLabel n s).setPort evs := by
  induction n generalizing s with
  | zero => rfl
  | succ n ih =>
    exact bind_setPort (dnsRd8_setPort evs s) fun c t => bind_setPort (nameAppend_setPort evs c t) fun _ u => ih u

theorem decPointer_setPort (p0 : Byte) (s : State) :
    decPointer p0 (s.setPort evs) = (decPointer p0 s).setPort evs := by
  refine bind_setPort (dnsRd8_setPort evs s) fun p1 t => ?_
  simp only [setPort_dreg]
  cases mapGet (pointerOffset p0 p1) t.dreg with
  | none => rfl
  | some nm => exact bind_setPort (nameSeparator_setPort evs t) fun _ u => nameAppendAll_setPort evs nm u

theorem decItems_setPort (fuel : Nat) (k : List (Word × Nat)) (s : State) :
    decItems fuel k (s.setPort evs) = (decItems fuel k s).setPort evs := by
  induction fuel generalizing k s with
  | zero => rfl
  | succ fuel ih =>
    refine bind_setPort (dnsRd8_setPort evs s) fun len t => ?_
    refine ite_setPort rfl (ite_setPort ?_ (ite_setPort rfl ?_))
    · exact bind_setPort (decPointer_setPort evs len t) fun _ _ => rfl
    · refine bind_setPort (nameSeparator_setPort evs t) fun _ u => ?_
      exact bind_setPort (decLabel_setPort evs _ u) fun _ v => ih _ v

theorem decRegister_setPort (k : List (Word × Nat)) (s : State) :
    decRegister k (s.setPort evs) = (decRegister k s).setPort evs := by
  induction k generalizing s with
  | nil => rfl
  | cons e k ih =>
    obtain ⟨start, idx⟩ := e
    simp only [decRegister, setPort_params, setPort_dreg, setPort_nameLen, nameSlice_setPort]
    cases regPut s.params.regCap wordLt s.dreg start (nameSlice s idx (s.nameLen.toNat - idx)) with
    | none => rfl
    | some m => exact ih (s.setDreg m)

theorem dnsDecode_setPort (s : State) : dnsDecode (s.setPort evs) = (dnsDecode s).setPort evs := by
  refine bind_setPort (dnsWindow_setPort evs s) fun _ t => ?_
  exact bind_setPort (decItems_setPort evs _ [] (t.setNameLen 0#32)) fun k u => decRegister_setPort evs k u

/-! ### `DNS.ENC` -/

theorem encLookup_setPort (nc : Bool) (rem : List Byte) (s : State) :
    encLookup nc rem (s.setPort evs) = (encLookup nc rem s).setPort evs := by
  simp only [encLookup, setPort_ereg, setPort_params, setPort_dnsPos]
  refine ite_setPort rfl ?_
  cases mapGet rem s.ereg with
  | some off => rfl
  | none =>
    cases regPut s.params.regCap nameLt s.ereg rem s.dnsPos with
    | none => rfl
    | some m => rfl

theorem encPointer_setPort (off : Word) (s : State) :
    encPointer off (s.setPort evs) = (encPointer off s).setPort evs :=
  ite_setPort rfl (dnsWrAll_setPort evs _ s)

theorem encLabel_setPort (label : List Byte) (s : State) :
    encLabel label (s.setPort evs) = (encLabel label s).setPort evs :=
  ite_setPort rfl (ite_setPort rfl (bind_setPort (dnsWr8_setPort evs _ s) fun _ t => dnsWrAll_setPort evs label t))

theorem encSuffix_setPort (nc : Bool) (fuel : Nat) (rem : List Byte) (s : State) :
    encSuffix nc fuel rem (s.setPort evs) = (encSuffix nc fuel rem s).setPort evs := by
  induction fuel generalizing rem s with
  | zero => rfl
  | succ fuel ih =>
    refine bind_setPort (encLookup_setPort evs nc rem s) fun found t => ?_
    cases found with
    | some off => exact encPointer_setPort evs off t
    | none =>
      refine bind_setPort (encLabel_setPort evs _ t) fun _ u => ?_
      split
      · exact dnsWr8_setPort evs _ u
      · rfl
      · exact ih _ u

theorem dnsEncode_setPort (nc : Bool) (s : State) :
    dnsEncode nc (s.setPort evs) = (dnsEncode nc s).setPort evs := by
  refine bind_setPort (dnsWindow_setPort evs s) fun _ t => ?_
  simp only [currentName, nameSlice_setPort]
  exact ite_setPort rfl (ite_setPort (dnsWr8_setPort evs _ t) (encSuffix_setPort evs nc _ _ t))

/-! ### A command and a host event -/

/-- The next state with other host events to come. -/
def outcomeSetPort (o : Host.Outcome State Fault Refusal) : Host.Outcome State Fault Refusal :=
  match o with
  | .next s => .next (s.setPort evs)
  | .fault f => .fault f
  | .refused r => .refused r

theorem finish_setPort {word : Word} {r r' : Res Unit} (h : r' = r.setPort evs) :
    finish word r' = outcomeSetPort evs (finish word r) := by
  subst h
  cases r with
  | ok _ s => rfl
  | raise c pos s => exact congrArg Host.Outcome.next (takeFault_setPort evs s c pos word)

theorem exec_setPort (i : Instr) (s : State) : exec i (s.setPort evs) = outcomeSetPort evs (exec i s) := by
  cases i with
  | nop => rfl
  | sysReset => rfl
  | icsInit => rfl
  | icsAdd => exact finish_setPort evs (bind_setPort (rangeOperand_setPort evs s) fun _ _ => rfl)
  | icsAddb imm8 => rfl
  | icsPh => exact finish_setPort evs (bind_setPort (phOperand_setPort evs s) fun _ _ => rfl)
  | icsPut =>
    refine finish_setPort evs (ite_setPort ?_ rfl)
    exact congrArg (Res.ok ()) (memWrite_setPort evs s _ _)
  | crcInit => rfl
  | crcAdd => exact finish_setPort evs (bind_setPort (rangeOperand_setPort evs s) fun _ _ => rfl)
  | crcAddb imm8 => rfl
  | adlInit => rfl
  | adlAdd => exact finish_setPort evs (bind_setPort (rangeOperand_setPort evs s) fun _ _ => rfl)
  | adlAddb imm8 => rfl
  | dnsClr => rfl
  | dnsDec => exact finish_setPort evs (dnsDecode_setPort evs s)
  | dnsEnc nc => exact finish_setPort evs (dnsEncode_setPort evs nc s)

theorem commandWrite_setPort (s : State) (w : Word) :
    commandWrite (s.setPort evs) w = outcomeSetPort evs (commandWrite s w) := by
  refine ite_setPort (ite_setPort (exec_setPort evs .sysReset s) rfl) ?_
  cases decode w with
  | error _ => exact congrArg Host.Outcome.next (takeFault_setPort evs s _ _ _)
  | ok i => exact exec_setPort evs i s

theorem readReg_setPort (s : State) (r : Reg) : readReg (s.setPort evs) r = readReg s r := by
  cases r <;> rfl

theorem readTarget_setPort (s : State) (t : Target) : readTarget (s.setPort evs) t = readTarget s t := by
  cases t with
  | reg r _ => exact readReg_setPort evs s r
  | nameByte i => rfl
  | bufByte a => rfl

theorem writeReg_setPort (s : State) (r : Reg) (v : Word) :
    writeReg (s.setPort evs) r v = (writeReg s r v).setPort evs := by
  cases r <;> rfl

theorem storeTarget_setPort (s : State) (t : Target) (data : Word) :
    storeTarget (s.setPort evs) t data = (storeTarget s t data).setPort evs := by
  cases t with
  | reg r _ => exact writeReg_setPort evs s r data
  | nameByte i => rfl
  | bufByte a => rfl

theorem hostRead_setPort (s : State) (width : Nat) (addr : Word) :
    hostRead (s.setPort evs) width addr = (hostRead s width addr).setPort evs := by
  simp only [hostRead, setPort_params]
  split
  · rw [readTarget_setPort]; rfl
  · rw [takeFault_setPort]; rfl

theorem hostWrite_setPort (s : State) (width : Nat) (addr data : Word) :
    hostWrite (s.setPort evs) width addr data = outcomeSetPort evs (hostWrite s width addr data) := by
  simp only [hostWrite, setPort_params]
  split
  · exact congrArg Host.Outcome.next (takeFault_setPort evs s _ _ _)
  · exact commandWrite_setPort evs s data
  · refine congrArg Host.Outcome.next ?_
    exact ite_setPort (g := fun t : State => t.setPort evs) rfl (storeTarget_setPort evs s _ data)

theorem hostEvent_setPort (s : State) (ev : HostEvent) :
    hostEvent (s.setPort evs) ev = outcomeSetPort evs (hostEvent s ev) := by
  cases ev with
  | read width addr => exact congrArg Host.Outcome.next (hostRead_setPort evs s width addr)
  | write width addr data => exact hostWrite_setPort evs s width addr data
  | hardReset => rfl

end

/-! ### A step -/

/-- What a step works on: two machines that agree on the engine's state, the parameters and the count of hard resets serve
their next event in states that differ in the events after it only. -/
theorem serving_setPort {s s' : State} (he : s.toEngineState = s'.toEngineState) (hp : s.params = s'.params)
    (hk : s.epoch = s'.epoch) (rest rest' : List HostEvent) : serving s' rest' = (serving s rest).setPort rest' := by
  obtain ⟨e, u⟩ := s
  obtain ⟨e', u'⟩ := s'
  subst he
  obtain ⟨p, n, evs, v⟩ := u
  obtain ⟨p', n', evs', v'⟩ := u'
  subst hp hk
  rfl

/-- No host event changes the parameters (70_reset_and_hazards.md R297). -/
theorem hostEvent_params {s t : State} {ev : HostEvent} (ht : hostEvent s ev = .next t) : t.params = s.params := by
  cases ev with
  | read width addr =>
    cases ht
    obtain ⟨v, hv⟩ := hostRead_toSurroundings s width addr
    rw [hv]
  | write width addr data =>
    obtain ⟨u, hu, hs⟩ := hostWrite_completes s width addr data
    obtain rfl : u = t := by simpa [hostEvent, hu] using ht
    exact congrArg Surroundings.params hs
  | hardReset =>
    cases ht
    rfl

theorem step_params {s t : State} (ht : step s = .next t) : t.params = s.params := by
  cases hport : s.port with
  | nil =>
    rw [step_of_port_nil hport] at ht
    cases ht
    rfl
  | cons ev rest =>
    rw [step_of_port_cons hport] at ht
    exact (hostEvent_params ht :)

end Sys2Proof.Machine

namespace Sys2Proof.Claims

open Sys2Proof Sys2Proof.Machine

/-- Settles O5: the two machines serve the same event in states that differ in `port` only, and no operation reads it. -/
theorem engineStateStandsAlone : Obligations.EngineStateStandsAlone := by
  refine ⟨fun s t => step_params, fun s s' t t' he hp hk hhead ht ht' => ?_⟩
  cases hport : s.port with
  | nil =>
    have hport' : s'.port = [] := by simpa [hport] using hhead.symm
    rw [step_of_port_nil hport] at ht
    rw [step_of_port_nil hport'] at ht'
    cases ht
    cases ht'
    exact ⟨he, hk, fun h => absurd rfl h⟩
  | cons ev rest =>
    obtain ⟨rest', hport'⟩ : ∃ rest', s'.port = ev :: rest' :=
      List.head?_eq_some_iff.mp (by rw [← hhead, hport]; rfl)
    rw [step_of_port_cons hport] at ht
    rw [step_of_port_cons hport', serving_setPort he hp hk rest rest', hostEvent_setPort, ht] at ht'
    cases ht'
    exact ⟨rfl, rfl, fun _ => rfl⟩

end Sys2Proof.Claims

/-! PROOF. The host port (20_memory.md R60 to R63, R80): which accesses are valid, what a read and a write do, and that a
stopped engine takes no write but the one of `SYS.RESET`. -/

namespace Sys2Proof.Machine

open Sys2Proof Sys2Proof.Claims

/-! ### What an access reaches -/

theorem mem_registerMap_fst_iff (n : Nat) :
    n ∈ registerMap.map Prod.fst ↔ n = 0x04 ∨ n ∈ readOnlyOffsets ∨ n ∈ writableRegisters.map Prod.fst := by
  have hmapped : ∀ m ∈ registerMap.map Prod.fst,
      m = 0x04 ∨ m ∈ readOnlyOffsets ∨ m ∈ writableRegisters.map Prod.fst := by decide
  have hread : ∀ m ∈ readOnlyOffsets, m ∈ registerMap.map Prod.fst := by decide
  have hwrite : ∀ m ∈ writableRegisters.map Prod.fst, m ∈ registerMap.map Prod.fst := by decide
  refine ⟨hmapped n, ?_⟩
  rintro (rfl | h | h)
  · decide
  · exact hread n h
  · exact hwrite n h

/-- A register can be written exactly when it is `CMD` or one that stores a field (10_state.md R21). -/
theorem registerMap_writable_iff {e : Nat × Reg × Access} (h : e ∈ registerMap) :
    (Target.reg e.2.1 e.2.2).writable = true ↔ e.1 = 0x04 ∨ e.1 ∈ writableRegisters.map Prod.fst := by
  revert e
  decide

/-- Everything that an access can reach (20_memory.md R60 to R63): a register, a byte of a window, which can be written, or
nothing. -/
theorem accessTarget_cases (p : Params) (width : Nat) (addr : Word) :
    (∃ e ∈ registerMap, width = 32 ∧ addr.toNat = e.1 ∧ accessTarget p width addr = some (.reg e.2.1 e.2.2)) ∨
    (windowAccess p width addr ∧ ∃ t, accessTarget p width addr = some t ∧ t.writable = true ∧ ∀ r a, t ≠ .reg r a) ∨
    (¬ validRead p width addr ∧ accessTarget p width addr = none) := by
  by_cases h32 : width = 32
  · subst h32
    by_cases hmem : addr.toNat ∈ registerMap.map Prod.fst
    · obtain ⟨e, he, hoff⟩ := List.mem_map.mp hmem
      have haddr : addr = BitVec.ofNat 32 e.1 := by simp [hoff]
      exact .inl ⟨e, he, rfl, hoff.symm, haddr ▸ accessTarget_of_mem he p⟩
    · have hget : mapGet addr.toNat registerMap = none :=
        Option.eq_none_iff_forall_ne_some.mpr fun ra h => hmem (List.mem_map_of_mem (mem_of_mapGet h))
      refine .inr (.inr ⟨?_, by simp [accessTarget, hget]⟩)
      rw [mem_registerMap_fst_iff] at hmem
      rintro (⟨_, h⟩ | ⟨h, _⟩)
      · exact hmem h
      · cases h
  · refine .inr ?_
    unfold accessTarget
    rw [if_neg h32]
    split_ifs with h8 hname hbuf
    · exact .inl ⟨⟨h8, .inl hname⟩, _, rfl, rfl, nofun⟩
    · exact .inl ⟨⟨h8, .inr hbuf⟩, _, rfl, rfl, nofun⟩
    · refine .inr ⟨?_, rfl⟩
      rintro (⟨h, _⟩ | ⟨_, h⟩)
      · exact h32 h
      · exact h.elim hname hbuf
    · refine .inr ⟨?_, rfl⟩
      rintro (⟨h, _⟩ | ⟨h, _⟩)
      · exact h32 h
      · exact h8 h

theorem accessTarget_eq_none_of_not_validRead {p : Params} {width : Nat} {addr : Word} (h : ¬ validRead p width addr) :
    accessTarget p width addr = none := by
  rcases accessTarget_cases p width addr with ⟨e, he, hw, hoff, _⟩ | ⟨hwin, _⟩ | ⟨_, hnone⟩
  · exact absurd (.inl ⟨hw, (mem_registerMap_fst_iff _).mp (hoff ▸ List.mem_map_of_mem he)⟩) h
  · exact absurd (.inr hwin) h
  · exact hnone

theorem accessTarget_isSome_of_validRead {p : Params} {width : Nat} {addr : Word} (h : validRead p width addr) :
    ∃ t, accessTarget p width addr = some t := by
  rcases accessTarget_cases p width addr with ⟨e, _, _, _, hsome⟩ | ⟨_, t, hsome, _⟩ | ⟨hinvalid, _⟩
  · exact ⟨_, hsome⟩
  · exact ⟨t, hsome⟩
  · exact absurd h hinvalid

/-- An invalid write reaches nothing that can be written (20_memory.md R61, R63). -/
theorem writeTarget_eq_none_of_not_validWrite {p : Params} {width : Nat} {addr : Word}
    (h : ¬ validWrite p width addr) : (accessTarget p width addr).filter Target.writable = none := by
  rcases accessTarget_cases p width addr with ⟨e, he, hw, hoff, hsome⟩ | ⟨hwin, _⟩ | ⟨_, hnone⟩
  · have hro : ¬ (Target.reg e.2.1 e.2.2).writable = true := fun hwritable =>
      h (.inl ⟨hw, hoff ▸ (registerMap_writable_iff he).mp hwritable⟩)
    simp [hsome, hro]
  · exact absurd (.inr hwin) h
  · simp [hnone]

/-- `CMD` stands at one address and is reached by 32-bit accesses only (10_state.md R23). -/
theorem eq_cmdAddr_of_accessTarget {p : Params} {width : Nat} {addr : Word} {a : Access}
    (h : accessTarget p width addr = some (.reg .cmd a)) : width = 32 ∧ addr = 0x04#32 := by
  have hoffset : ∀ e ∈ registerMap, e.2.1 = .cmd → e.1 = 0x04 := by decide
  rcases accessTarget_cases p width addr with ⟨e, he, hw, hoff, hsome⟩ | ⟨_, t, hsome, _, hwin⟩ | ⟨_, hnone⟩
  · rw [h] at hsome
    injection hsome with ht
    injection ht with hr
    exact ⟨hw, BitVec.eq_of_toNat_eq (hoff.trans (hoffset e he hr.symm))⟩
  · rw [h] at hsome
    injection hsome with ht
    exact absurd ht.symm (hwin .cmd a)
  · rw [h] at hnone
    cases hnone

theorem accessTarget_name {p : Params} {i : Nat} {addr : Word} (hi : i < p.nameMax) (h : addr.toNat = 0x1000 + i) :
    accessTarget p 8 addr = some (.nameByte i) := by
  simp [accessTarget, h, hi]

theorem Params.bounds {p : Params} (h : p.wf = true) : p.bufSize ≤ 2 ^ 31 ∧ p.nameMax ≤ 4096 := by
  simp only [Params.wf, Bool.and_eq_true, decide_eq_true_eq] at h
  obtain ⟨⟨⟨⟨_, hbuf⟩, _⟩, hname⟩, _⟩ := h
  exact ⟨hbuf, hname⟩

/-- The `NAME` window ends before the `BUF` window begins (20_memory.md R60). -/
theorem accessTarget_buf {p : Params} {a : Nat} {addr : Word} (hp : p.wf = true) (ha : a < p.bufSize)
    (h : addr.toNat = 0x80000000 + a) : accessTarget p 8 addr = some (.bufByte a) := by
  obtain ⟨_, hname⟩ := Params.bounds hp
  have hnot : ¬ 0x80000000 + a < 0x1000 + p.nameMax := by omega
  simp [accessTarget, h, ha, hnot]

/-! ### What the value returned does not touch -/

theorem readReg_setRdata (s : State) (v : Option Word) (r : Reg) : readReg (s.setRdata v) r = readReg s r := by
  cases r <;> rfl

theorem readTarget_setRdata (s : State) (v : Option Word) (t : Target) :
    readTarget (s.setRdata v) t = readTarget s t := by
  cases t with
  | reg r a => exact readReg_setRdata s v r
  | nameByte i => rfl
  | bufByte a => rfl

theorem takeFault_setRdata (s : State) (v : Option Word) (c : ErrCode) (pos cmd : Word) :
    takeFault (s.setRdata v) c pos cmd = (takeFault s c pos cmd).setRdata v :=
  (apply_ite (State.setRdata · v) (s.fault = true) s (s.recordFault (errCodeByte c) pos cmd)).symm

/-! ### A step that serves one access -/

theorem step_withEvent (s : State) (ev : HostEvent) : step (withEvent s ev) = hostEvent (s.setRdata none) ev := rfl

theorem withEvent_setPort {s : State} {ev : HostEvent} {rest : List HostEvent} (h : s.port = ev :: rest) :
    withEvent (s.setPort rest) ev = s := by
  rw [withEvent, setPort_port, ← h]
  rfl

theorem step_read_of_target {s : State} {width : Nat} {addr : Word} {t : Target}
    (h : accessTarget s.params width addr = some t) :
    step (withEvent s (.read width addr)) = .next (s.setRdata (some (readTarget s t))) := by
  rw [step_withEvent, hostEvent, hostRead, setRdata_params, h]
  simp only [readTarget_setRdata]
  rfl

theorem step_read_of_not_validRead {s : State} {width : Nat} {addr : Word} (h : ¬ validRead s.params width addr) :
    step (withEvent s (.read width addr)) = .next (takeFault (s.setRdata (some 0#32)) .access addr 0#32) := by
  rw [step_withEvent, hostEvent, hostRead, setRdata_params, accessTarget_eq_none_of_not_validRead h]
  simp only [takeFault_setRdata]
  rfl

theorem step_write_of_not_validWrite {s : State} {width : Nat} {addr data : Word}
    (h : ¬ validWrite s.params width addr) :
    step (withEvent s (.write width addr data)) = .next (takeFault (s.setRdata none) .access addr 0#32) := by
  rw [step_withEvent, hostEvent, hostWrite, setRdata_params, writeTarget_eq_none_of_not_validWrite h]

/-- While `FAULT` is 0 a valid write that does not reach `CMD` stores, and returns nothing (20_memory.md R61, R62). -/
theorem step_write_of_target {s : State} {width : Nat} {addr data : Word} {t : Target} (hrun : s.fault = false)
    (h : accessTarget s.params width addr = some t) (hwrite : t.writable = true) (hcmd : ∀ a, t ≠ .reg .cmd a) :
    step (withEvent s (.write width addr data)) = .next (storeTarget (s.setRdata none) t data) := by
  rw [step_withEvent, hostEvent, hostWrite, setRdata_params, h, Option.filter_some_pos hwrite]
  split
  · next hnone => cases hnone
  · next a hreg => exact absurd (Option.some.inj hreg) (hcmd a)
  · next u hu => cases hu; simp [hrun]

/-! ### While `FAULT` is 1 -/

theorem commandWrite_of_fault {s : State} {w : Word} (hf : s.fault = true) (hw : w ≠ 0x01000000#32) :
    commandWrite s w = .next s := by
  simp [commandWrite, hf, hw]

/-- A write to a stopped engine that is not the one of `SYS.RESET` changes nothing (20_memory.md R80). -/
theorem hostWrite_of_fault {s : State} {width : Nat} {addr data : Word} (hf : s.fault = true)
    (hne : ¬ (width = 32 ∧ addr = 0x04#32 ∧ data = 0x01000000#32)) : hostWrite s width addr data = .next s := by
  unfold hostWrite
  split
  · rw [takeFault_of_fault hf]
  · next a hreg =>
    obtain ⟨hw, haddr⟩ := eq_cmdAddr_of_accessTarget (Option.filter_eq_some_iff.mp hreg).1
    exact commandWrite_of_fault hf fun hdata => hne ⟨hw, haddr, hdata⟩
  · rw [if_pos hf]

/-- A stopped engine takes an event other than its two resets and changes nothing but the value returned. -/
theorem step_of_fault {s : State} {ev : HostEvent} (hf : s.fault = true) (hhard : ev ≠ .hardReset)
    (hsoft : ev ≠ .write 32 0x04#32 0x01000000#32) :
    ∃ v, step (withEvent s ev) = .next (s.setRdata v) ∧
      (∀ width addr data, ev = .write width addr data → v = none) ∧
      (∀ width addr, ev = .read width addr → ¬ validRead s.params width addr → v = some 0#32) := by
  cases ev with
  | read width addr =>
    by_cases hvalid : validRead s.params width addr
    · obtain ⟨t, ht⟩ := accessTarget_isSome_of_validRead hvalid
      refine ⟨_, step_read_of_target ht, nofun, fun _ _ hev hinvalid => ?_⟩
      cases hev
      exact absurd hvalid hinvalid
    · refine ⟨some 0#32, ?_, nofun, fun _ _ _ _ => rfl⟩
      rw [step_read_of_not_validRead hvalid, takeFault_setRdata, takeFault_of_fault hf]
  | write width addr data =>
    refine ⟨none, hostWrite_of_fault hf ?_, fun _ _ _ _ => rfl, nofun⟩
    rintro ⟨rfl, rfl, rfl⟩
    exact hsoft rfl
  | hardReset => exact absurd rfl hhard

/-! ### Register writes -/

/-- The bits that a host write to a register stores (10_state.md R21, R28 to R43); none for `CMD` and the read-only ones. -/
def storedBits : Reg → Option Word
  | .argPtr | .argCnt | .phLen | .phSrc0 | .phSrc1 | .phSrc2 | .phSrc3 | .phDst0 | .phDst1 | .phDst2 | .phDst3
  | .dnsBase | .dnsLen | .dnsPos | .nameLen => some (BitVec.allOnes 32)
  | .phCtl => some 0x0000000F#32
  | .phProto => some 0x000000FF#32
  | .id | .cmd | .status | .errCode | .errPos | .errCmd | .icsSum | .icsResult | .crcState | .crcResult | .adlSum
  | .dnsDcount | .dnsEcount | .cfgBufSize | .cfgNameMax | .cfgRegCap | .cfgCrcInit | .cfgCrcXorout => none

theorem writableRegisters_eq :
    writableRegisters = registerMap.filterMap fun e => (storedBits e.2.1).map fun mask => (e.1, mask) := by
  decide

theorem mem_writableRegisters {e : Nat × Word} (h : e ∈ writableRegisters) :
    ∃ m ∈ registerMap, m.1 = e.1 ∧ storedBits m.2.1 = some e.2 := by
  rw [writableRegisters_eq] at h
  obtain ⟨m, hm, hmap⟩ := List.mem_filterMap.mp h
  obtain ⟨mask, hmask, rfl⟩ := Option.map_eq_some_iff.mp hmap
  exact ⟨m, hm, rfl, hmask⟩

theorem registerMap_writable_of_storedBits {m : Nat × Reg × Access} (h : m ∈ registerMap)
    (hbits : (storedBits m.2.1).isSome = true) : (Target.reg m.2.1 m.2.2).writable = true := by
  revert m
  decide

/-- No register stands at two offsets (10_state.md R52). -/
theorem registerMap_offset_unique {m n : Nat × Reg × Access} (hm : m ∈ registerMap) (hn : n ∈ registerMap)
    (h : m.2.1 = n.2.1) : m.1 = n.1 :=
  (by decide : ∀ m ∈ registerMap, ∀ n ∈ registerMap, m.2.1 = n.2.1 → m.1 = n.1) m hm n hn h

/-- Everything that a register write can change: the field of the register written. -/
theorem writeReg_eq (s : State) (r : Reg) (v : Word) :
    writeReg s r v = { s with
      argPtr := if r = .argPtr then v else s.argPtr
      argCnt := if r = .argCnt then v else s.argCnt
      phCtl := if r = .phCtl then v.extractLsb' 0 4 else s.phCtl
      phProto := if r = .phProto then v.extractLsb' 0 8 else s.phProto
      phLen := if r = .phLen then v else s.phLen
      phSrc0 := if r = .phSrc0 then v else s.phSrc0
      phSrc1 := if r = .phSrc1 then v else s.phSrc1
      phSrc2 := if r = .phSrc2 then v else s.phSrc2
      phSrc3 := if r = .phSrc3 then v else s.phSrc3
      phDst0 := if r = .phDst0 then v else s.phDst0
      phDst1 := if r = .phDst1 then v else s.phDst1
      phDst2 := if r = .phDst2 then v else s.phDst2
      phDst3 := if r = .phDst3 then v else s.phDst3
      dnsBase := if r = .dnsBase then v else s.dnsBase
      dnsLen := if r = .dnsLen then v else s.dnsLen
      dnsPos := if r = .dnsPos then v else s.dnsPos
      nameLen := if r = .nameLen then v else s.nameLen } := by
  cases r <;> rfl

/-- A field of the low `k` bits reads back as the word written with the other bits cleared (10_state.md R21). -/
theorem setWidth_extractLsb'_zero (v : Word) {k : Nat} (hk : k ≤ 32) :
    (v.extractLsb' 0 k).setWidth 32 = v &&& BitVec.ofNat 32 (2 ^ k - 1) := by
  have hpow : 2 ^ k ≤ 2 ^ 32 := Nat.pow_le_pow_right (by decide) hk
  have hmask : (2 ^ k - 1) % 2 ^ 32 = 2 ^ k - 1 := Nat.mod_eq_of_lt (by omega)
  apply BitVec.eq_of_toNat_eq
  rw [BitVec.toNat_setWidth_of_le hk, BitVec.extractLsb'_toNat, BitVec.toNat_and, BitVec.toNat_ofNat,
    hmask, Nat.and_two_pow_sub_one_eq_mod, Nat.shiftRight_zero]

/-- A register that the host can write reads, after a write to a register, as the bits stored if it is the one written, and
as before otherwise (20_memory.md R61). -/
theorem readReg_writeReg {r' : Reg} {mask : Word} (h : storedBits r' = some mask) (s : State) (r : Reg) (v : Word) :
    readReg (writeReg s r v) r' = if r = r' then v &&& mask else readReg s r' := by
  have hctl : (v.extractLsb' 0 4).setWidth 32 = v &&& 0x0000000F#32 := setWidth_extractLsb'_zero v (by decide)
  have hproto : (v.extractLsb' 0 8).setWidth 32 = v &&& 0x000000FF#32 := setWidth_extractLsb'_zero v (by decide)
  rw [writeReg_eq]
  cases r' <;> cases h <;> simp only [readReg, BitVec.and_allOnes]
  case phCtl => rw [apply_ite (BitVec.setWidth 32), hctl]
  case phProto => rw [apply_ite (BitVec.setWidth 32), hproto]

/-- While `FAULT` is 0 a 32-bit write at the offset of a register that stores bits is a write of that register. -/
theorem step_write_register {s : State} {m : Nat × Reg × Access} {mask : Word} (hrun : s.fault = false)
    (hm : m ∈ registerMap) (hmask : storedBits m.2.1 = some mask) (v : Word) :
    step (withEvent s (.write 32 (BitVec.ofNat 32 m.1) v)) = .next (writeReg (s.setRdata none) m.2.1 v) := by
  refine step_write_of_target hrun (accessTarget_of_mem hm s.params)
    (registerMap_writable_of_storedBits hm (by rw [hmask]; rfl)) fun a hcmd => ?_
  injection hcmd with hr
  rw [hr] at hmask
  cases hmask

end Sys2Proof.Machine

namespace Sys2Proof.Claims

open Sys2Proof Sys2Proof.Machine

/-- Settles O8: an invalid access reaches nothing that could be read or written, so that it takes the fault `E_ACCESS`. -/
theorem invalidAccessRaises : Obligations.InvalidAccessRaises :=
  fun _ _ _ _ => ⟨step_read_of_not_validRead, step_write_of_not_validWrite⟩

/-- Settles O9: a valid read reaches a target, and a byte of a window is its own target. -/
theorem validReadsHaveNoSideEffect : Obligations.ValidReadsHaveNoSideEffect := by
  intro s width addr hp hvalid
  obtain ⟨t, ht⟩ := accessTarget_isSome_of_validRead hvalid
  refine ⟨readTarget s t, step_read_of_target ht, ?_, ?_⟩
  · rintro i hi rfl haddr
    rw [accessTarget_name hi haddr] at ht
    cases ht
    rfl
  · rintro a ha rfl haddr
    rw [accessTarget_buf hp ha haddr] at ht
    cases ht
    rfl

/-- Settles O11: the write changes one field, which is what the register's view shows, and every other writable register
stands at another offset. -/
theorem registerWriteReadsBack : Obligations.RegisterWriteReadsBack := by
  rintro s v hrun ⟨off, mask⟩ he
  obtain ⟨m, hm, rfl, hmask⟩ := mem_writableRegisters he
  refine ⟨writeReg (s.setRdata none) m.2.1 v, step_write_register hrun hm hmask v, ?_, ?_, ?_⟩
  · rw [step_read_register hm, readReg_writeReg hmask, if_pos rfl]
  · rintro ⟨off', mask'⟩ he' hne u u' hu hu'
    obtain ⟨m', hm', rfl, hmask'⟩ := mem_writableRegisters he'
    have hreg : m.2.1 ≠ m'.2.1 := fun h => hne (registerMap_offset_unique hm' hm h.symm)
    rw [step_read_register hm'] at hu hu'
    cases hu
    cases hu'
    exact congrArg some (by rw [readReg_writeReg hmask', if_neg hreg, readReg_setRdata])
  · rw [writeReg_eq]
    simp [hrun]

/-- Settles O12: both windows' addresses fit 32 bits, so that each byte is reached at its own index. -/
theorem windowWriteStoresOneByte : Obligations.WindowWriteStoresOneByte := by
  intro s data hp hrun
  obtain ⟨hbuf, hname⟩ := Params.bounds hp
  constructor
  · intro a ha
    have haddr : (BitVec.ofNat 32 (0x80000000 + a)).toNat = 0x80000000 + a := Nat.mod_eq_of_lt (by omega)
    exact ⟨bufWrite (s.setRdata none) a (data.extractLsb' 0 8),
      step_write_of_target hrun (accessTarget_buf hp ha haddr) rfl nofun, rfl, fun x => bufRead_bufWrite _ a x _⟩
  · intro i hi
    have haddr : (BitVec.ofNat 32 (0x1000 + i)).toNat = 0x1000 + i := Nat.mod_eq_of_lt (by omega)
    exact ⟨nameWrite (s.setRdata none) i (data.extractLsb' 0 8),
      step_write_of_target hrun (accessTarget_name hi haddr) rfl nofun, rfl, fun x => nameRead_nameWrite _ i x _⟩

/-- Settles O17: while `FAULT` is 1 an event other than the two resets leaves the engine as it is, so one that clears
`FAULT` is one of them. -/
theorem stoppedEngineIgnoresWrites : Obligations.StoppedEngineIgnoresWrites := by
  refine ⟨fun s ev hf hhard hsoft => step_of_fault hf hhard hsoft, fun s t hf ht hclear => ?_⟩
  cases hport : s.port with
  | nil =>
    rw [step_of_port_nil hport] at ht
    cases ht
    rw [hf] at hclear
    cases hclear
  | cons ev rest =>
    by_contra hno
    simp only [List.head?_cons, Option.some.injEq, not_or] at hno
    obtain ⟨hhard, hsoft⟩ := hno
    obtain ⟨v, hv, _⟩ := step_of_fault (s := s.setPort rest) hf hhard hsoft
    rw [withEvent_setPort hport, ht] at hv
    cases hv
    exact absurd hf (by simpa using hclear)

end Sys2Proof.Claims

/-! PROOF. The encoding (30_encoding.md R90 to R98, R102): a word is its four fields, the decoder selects by them, every
command has one word, and what a word written to `CMD` does. -/

namespace Sys2Proof.Machine

open Sys2Proof Sys2Proof.Claims Sys2Proof.Laws

/-! ### A word and its fields -/

/-- The four fields are the whole word (30_encoding.md R91). -/
theorem fieldsOf_injective {w v : Word} (h : fieldsOf w = fieldsOf v) : w = v := by
  simp only [fieldsOf, Fields.mk.injEq] at h
  obtain ⟨hopc, hreserved, hnc, himm⟩ := h
  apply BitVec.eq_of_getLsbD_eq
  intro k hk
  rcases (by omega : k < 8 ∨ k = 8 ∨ 9 ≤ k ∧ k < 24 ∨ 24 ≤ k) with hlow | rfl | ⟨hmid, hmid'⟩ | hhigh
  · simpa [hlow] using congrArg (·.getLsbD k) himm
  · exact hnc
  · simpa [hmid, (by omega : k - 9 < 15)] using congrArg (·.getLsbD (k - 9)) hreserved
  · simpa [hhigh, (by omega : k - 24 < 8)] using congrArg (·.getLsbD (k - 24)) hopc

/-- A byte widened to a word has no bits but the eight low ones. -/
theorem extractLsb'_setWidth_byte (b : Byte) {start len : Nat} (hstart : 8 ≤ start) (hlen : start + len ≤ 32) :
    (b.setWidth 32).extractLsb' start len = 0#len := by
  rw [BitVec.extractLsb'_setWidth_of_le hlen]
  ext k hk
  simp [BitVec.getLsbD_of_ge b (start + k) (by omega)]

/-- A byte put into a word whose `IMM8` is 0 is the `IMM8` of the word, and the other fields stay (30_encoding.md R94). -/
theorem fieldsOf_or_imm8 {p : Word} {opc : Byte} (h : fieldsOf p = ⟨opc, 0#15, false, 0#8⟩) (b : Byte) :
    fieldsOf (p ||| b.setWidth 32) = ⟨opc, 0#15, false, b⟩ := by
  simp only [fieldsOf, Fields.mk.injEq, BitVec.extractLsb'_or, BitVec.getLsbD_or] at h ⊢
  obtain ⟨hopc, hreserved, hnc, himm⟩ := h
  have himm' : (b.setWidth 32).extractLsb' 0 8 = b := by
    rw [BitVec.extractLsb'_setWidth_of_le (by decide), BitVec.extractLsb'_eq_self]
  rw [hopc, hreserved, hnc, himm, himm', extractLsb'_setWidth_byte b (by decide) (by decide),
    extractLsb'_setWidth_byte b (by decide) (by decide)]
  simp

/-! ### The decoder -/

section

variable {f : Fields} {i j : Instr}

theorem plainCommand_ok (h : plainCommand f j = .ok i) : f.nc = false ∧ f.imm8 = 0#8 ∧ i = j := by
  unfold plainCommand at h
  split_ifs at h with hnc himm
  cases h
  exact ⟨by simpa using hnc, by simpa using himm, rfl⟩

theorem byteCommand_ok {mk : Byte → Instr} (h : byteCommand f mk = .ok i) : f.nc = false ∧ i = mk f.imm8 := by
  unfold byteCommand at h
  split_ifs at h with hnc
  cases h
  exact ⟨by simpa using hnc, rfl⟩

theorem flagCommand_ok {mk : Bool → Instr} (h : flagCommand f mk = .ok i) : f.imm8 = 0#8 ∧ i = mk f.nc := by
  unfold flagCommand at h
  split_ifs at h with himm
  cases h
  exact ⟨by simpa using himm, rfl⟩

/-! The fields of a word that a row of the decoder takes are those of the command's own word. -/

variable {opc : Byte} (hreserved : f.reserved = 0#15) (hopc : f.opc = opc)
include hreserved hopc

theorem fieldsOf_encode_of_plainCommand (hj : fieldsOf (encode j) = ⟨opc, 0#15, false, 0#8⟩)
    (h : plainCommand f j = .ok i) : fieldsOf (encode i) = f := by
  obtain ⟨hnc, himm, rfl⟩ := plainCommand_ok h
  rw [hj, ← hopc, ← hreserved, ← hnc, ← himm]

theorem fieldsOf_encode_of_byteCommand {mk : Byte → Instr}
    (hmk : ∀ b, fieldsOf (encode (mk b)) = ⟨opc, 0#15, false, b⟩) (h : byteCommand f mk = .ok i) :
    fieldsOf (encode i) = f := by
  obtain ⟨hnc, rfl⟩ := byteCommand_ok h
  rw [hmk, ← hopc, ← hreserved, ← hnc]

theorem fieldsOf_encode_of_flagCommand {mk : Bool → Instr}
    (hmk : ∀ nc, fieldsOf (encode (mk nc)) = ⟨opc, 0#15, nc, 0#8⟩) (h : flagCommand f mk = .ok i) :
    fieldsOf (encode i) = f := by
  obtain ⟨himm, rfl⟩ := flagCommand_ok h
  rw [hmk, ← hopc, ← hreserved, ← himm]

end

theorem fieldsOf_encode_icsAddb (b : Byte) : fieldsOf (encode (.icsAddb b)) = ⟨0x12#8, 0#15, false, b⟩ :=
  fieldsOf_or_imm8 rfl b

theorem fieldsOf_encode_crcAddb (b : Byte) : fieldsOf (encode (.crcAddb b)) = ⟨0x22#8, 0#15, false, b⟩ :=
  fieldsOf_or_imm8 rfl b

theorem fieldsOf_encode_adlAddb (b : Byte) : fieldsOf (encode (.adlAddb b)) = ⟨0x32#8, 0#15, false, b⟩ :=
  fieldsOf_or_imm8 rfl b

theorem fieldsOf_encode_dnsEnc (nc : Bool) : fieldsOf (encode (.dnsEnc nc)) = ⟨0x42#8, 0#15, nc, 0#8⟩ := by
  cases nc <;> rfl

/-- One turn of the selection: what holds of the row's answer and of every later row's holds of what is answered. -/
theorem ok_of_row {c : Prop} [Decidable c] {row rest : Except Reject Instr} {i : Instr} {P : Prop}
    (hrow : c → row = .ok i → P) (hrest : rest = .ok i → P) : (if c then row else rest) = .ok i → P := by
  split_ifs with hc
  · exact hrow hc
  · exact hrest

/-- What the selection by opcode answers is the command whose word has these fields (30_encoding.md R92). -/
theorem fieldsOf_encode_of_selectCommand {f : Fields} {i : Instr} (hr : f.reserved = 0#15) :
    selectCommand f = .ok i → fieldsOf (encode i) = f := by
  unfold selectCommand
  refine ok_of_row (fun hopc => fieldsOf_encode_of_plainCommand (j := .nop) hr hopc rfl) ?_
  refine ok_of_row (fun hopc => fieldsOf_encode_of_plainCommand (j := .sysReset) hr hopc rfl) ?_
  refine ok_of_row (fun hopc => fieldsOf_encode_of_plainCommand (j := .icsInit) hr hopc rfl) ?_
  refine ok_of_row (fun hopc => fieldsOf_encode_of_plainCommand (j := .icsAdd) hr hopc rfl) ?_
  refine ok_of_row (fun hopc => fieldsOf_encode_of_byteCommand hr hopc fieldsOf_encode_icsAddb) ?_
  refine ok_of_row (fun hopc => fieldsOf_encode_of_plainCommand (j := .icsPh) hr hopc rfl) ?_
  refine ok_of_row (fun hopc => fieldsOf_encode_of_plainCommand (j := .icsPut) hr hopc rfl) ?_
  refine ok_of_row (fun hopc => fieldsOf_encode_of_plainCommand (j := .crcInit) hr hopc rfl) ?_
  refine ok_of_row (fun hopc => fieldsOf_encode_of_plainCommand (j := .crcAdd) hr hopc rfl) ?_
  refine ok_of_row (fun hopc => fieldsOf_encode_of_byteCommand hr hopc fieldsOf_encode_crcAddb) ?_
  refine ok_of_row (fun hopc => fieldsOf_encode_of_plainCommand (j := .adlInit) hr hopc rfl) ?_
  refine ok_of_row (fun hopc => fieldsOf_encode_of_plainCommand (j := .adlAdd) hr hopc rfl) ?_
  refine ok_of_row (fun hopc => fieldsOf_encode_of_byteCommand hr hopc fieldsOf_encode_adlAddb) ?_
  refine ok_of_row (fun hopc => fieldsOf_encode_of_plainCommand (j := .dnsClr) hr hopc rfl) ?_
  refine ok_of_row (fun hopc => fieldsOf_encode_of_plainCommand (j := .dnsDec) hr hopc rfl) ?_
  refine ok_of_row (fun hopc => fieldsOf_encode_of_flagCommand hr hopc fieldsOf_encode_dnsEnc) ?_
  exact nofun

/-- The word that decodes to a command is the command's word. -/
theorem encode_of_decode {w : Word} {i : Instr} (h : decode w = .ok i) : encode i = w := by
  unfold decode at h
  split_ifs at h with hr
  exact fieldsOf_injective (fieldsOf_encode_of_selectCommand (not_not.mp hr) h)

theorem decode_encode (i : Instr) : decode (encode i) = .ok i := by
  cases i with
  | icsAddb b => rw [decode, fieldsOf_encode_icsAddb]; rfl
  | crcAddb b => rw [decode, fieldsOf_encode_crcAddb]; rfl
  | adlAddb b => rw [decode, fieldsOf_encode_adlAddb]; rfl
  | dnsEnc nc => rw [decode, fieldsOf_encode_dnsEnc]; rfl
  | _ => rfl

/-- Decode and encode agree, both ways (30_encoding.md R92, R94, R95). -/
theorem decode_eq_ok_iff {w : Word} {i : Instr} : decode w = .ok i ↔ encode i = w :=
  ⟨encode_of_decode, fun h => h ▸ decode_encode i⟩

/-! ### The check of the fields -/

/-- Every command's word passes the check (30_encoding.md R96, R97). -/
theorem fieldsOf_encode_wf : ∀ i : Instr, (fieldsOf (encode i)).wf = true
  | .nop => FieldsLegal.nop
  | .sysReset => FieldsLegal.sysReset
  | .icsInit => FieldsLegal.icsInit
  | .icsAdd => FieldsLegal.icsAdd
  | .icsAddb b => FieldsLegal.icsAddb b
  | .icsPh => FieldsLegal.icsPh
  | .icsPut => FieldsLegal.icsPut
  | .crcInit => FieldsLegal.crcInit
  | .crcAdd => FieldsLegal.crcAdd
  | .crcAddb b => FieldsLegal.crcAddb b
  | .adlInit => FieldsLegal.adlInit
  | .adlAdd => FieldsLegal.adlAdd
  | .adlAddb b => FieldsLegal.adlAddb b
  | .dnsClr => FieldsLegal.dnsClr
  | .dnsDec => FieldsLegal.dnsDec
  | .dnsEnc nc => FieldsLegal.dnsEnc nc

/-- What the check says of the four fields, one condition of 30_encoding.md R96 and R97 each. -/
theorem fields_wf_iff {f : Fields} : f.wf = true ↔
    f.opc ∈ assignedOpcodes ∧ f.reserved = 0#15 ∧ (f.nc = true → f.opc = 0x42#8) ∧
      (f.imm8 ≠ 0#8 → f.opc ∈ imm8Opcodes) := by
  simp [Fields.wf, and_assoc, Decidable.imp_iff_not_or]

/-- A word whose fields do not pass the check is illegal. -/
theorem decode_error_of_not_wf {w : Word} (h : (fieldsOf w).wf = false) : ∃ r, decode w = .error r := by
  cases hw : decode w with
  | error r => exact ⟨r, rfl⟩
  | ok i =>
    rw [← encode_of_decode hw, fieldsOf_encode_wf] at h
    cases h

/-! ### The opcode map -/

/-- Every command's word matches the row of the map that bears its mnemonic (30_encoding.md R92). -/
theorem encode_in_table : ∀ i : Instr, ∃ r ∈ commandRows, r.mnemonic = i.mnemonic ∧ encode i &&& r.mask = r.pattern
  | .nop => EncodeInTable.nop
  | .sysReset => EncodeInTable.sysReset
  | .icsInit => EncodeInTable.icsInit
  | .icsAdd => EncodeInTable.icsAdd
  | .icsAddb b => EncodeInTable.icsAddb b
  | .icsPh => EncodeInTable.icsPh
  | .icsPut => EncodeInTable.icsPut
  | .crcInit => EncodeInTable.crcInit
  | .crcAdd => EncodeInTable.crcAdd
  | .crcAddb b => EncodeInTable.crcAddb b
  | .adlInit => EncodeInTable.adlInit
  | .adlAdd => EncodeInTable.adlAdd
  | .adlAddb b => EncodeInTable.adlAddb b
  | .dnsClr => EncodeInTable.dnsClr
  | .dnsDec => EncodeInTable.dnsDec
  | .dnsEnc nc => EncodeInTable.dnsEnc nc

/-- A word is the bits under a mask together with the others. -/
theorem pattern_or_rest_eq {w mask pattern : Word} (h : w &&& mask = pattern) : pattern ||| (w &&& ~~~mask) = w := by
  rw [← h, ← BitVec.and_or_distrib_left, BitVec.or_not_self, BitVec.and_allOnes]

theorem eq_of_matches_all {w p : Word} (h : w &&& 0xFFFFFFFF#32 = p) : p = w :=
  h.symm.trans BitVec.and_allOnes

theorem eq_of_matches_imm8 {w p : Word} (h : w &&& 0xFFFFFF00#32 = p) : p ||| (w.extractLsb' 0 8).setWidth 32 = w := by
  rw [setWidth_extractLsb'_zero w (by decide)]
  exact pattern_or_rest_eq h

theorem eq_of_matches_nc {w p : Word} (h : w &&& 0xFFFFFEFF#32 = p) :
    (p ||| if w.getLsbD 8 then 0x100#32 else 0#32) = w := by
  have hbit : w &&& 0x100#32 = if w.getLsbD 8 then 0x100#32 else 0#32 := BitVec.and_twoPow w 8
  rw [← hbit]
  exact pattern_or_rest_eq h

/-- A word that matches a row is the word of a command, its operand read from the bits that the mask leaves open. -/
theorem exists_encode_of_matches (w : Word) :
    ∀ r ∈ commandRows, w &&& r.mask = r.pattern → ∃ i, encode i = w := by
  simp only [commandRows, List.forall_mem_cons]
  exact ⟨fun h => ⟨.nop, eq_of_matches_all h⟩, fun h => ⟨.sysReset, eq_of_matches_all h⟩,
    fun h => ⟨.icsInit, eq_of_matches_all h⟩, fun h => ⟨.icsAdd, eq_of_matches_all h⟩,
    fun h => ⟨.icsAddb _, eq_of_matches_imm8 h⟩, fun h => ⟨.icsPh, eq_of_matches_all h⟩,
    fun h => ⟨.icsPut, eq_of_matches_all h⟩, fun h => ⟨.crcInit, eq_of_matches_all h⟩,
    fun h => ⟨.crcAdd, eq_of_matches_all h⟩, fun h => ⟨.crcAddb _, eq_of_matches_imm8 h⟩,
    fun h => ⟨.adlInit, eq_of_matches_all h⟩, fun h => ⟨.adlAdd, eq_of_matches_all h⟩,
    fun h => ⟨.adlAddb _, eq_of_matches_imm8 h⟩, fun h => ⟨.dnsClr, eq_of_matches_all h⟩,
    fun h => ⟨.dnsDec, eq_of_matches_all h⟩, fun h => ⟨.dnsEnc _, eq_of_matches_nc h⟩, nofun⟩

/-- Two rows whose patterns agree under both masks are one row. -/
theorem commandRows_disjoint : ∀ r ∈ commandRows, ∀ r' ∈ commandRows,
    r.pattern &&& r'.mask = r'.pattern &&& r.mask → r = r' := by
  decide

/-- No word matches two rows (30_encoding.md R92). -/
theorem row_unique {w : Word} {r r' : CommandRow} (hr : r ∈ commandRows) (hr' : r' ∈ commandRows)
    (h : w &&& r.mask = r.pattern) (h' : w &&& r'.mask = r'.pattern) : r = r' :=
  commandRows_disjoint r hr r' hr' <| by
    rw [← h, ← h', BitVec.and_assoc, BitVec.and_assoc, BitVec.and_comm r.mask]

/-- The row that a command's word matches bears the command's mnemonic. -/
theorem mnemonic_of_matches {i : Instr} {r : CommandRow} (hr : r ∈ commandRows)
    (h : encode i &&& r.mask = r.pattern) : r.mnemonic = i.mnemonic := by
  obtain ⟨r', hr', hname, h'⟩ := encode_in_table i
  rw [row_unique hr hr' h h', hname]

/-! ### A word written to `CMD` -/

/-- While `FAULT` is 0 a legal word executes its command (30_encoding.md R102, third case). -/
theorem commandWrite_of_decode {s : State} {w : Word} {i : Instr} (hrun : s.fault = false) (h : decode w = .ok i) :
    commandWrite s w = exec i s := by
  simp [commandWrite, hrun, h]

/-- While `FAULT` is 0 an illegal word raises `E_ILLEGAL_CMD` (30_encoding.md R97, R102). -/
theorem commandWrite_of_error {s : State} {w : Word} {r : Reject} (hrun : s.fault = false) (h : decode w = .error r) :
    commandWrite s w = .next (faulted s 0x01#8 0#32 w) := by
  simp only [commandWrite, hrun, h, takeFault_of_running hrun]
  rfl

/-- A valid write to `CMD` is the command write of its word (10_state.md R23). -/
theorem step_issue (s : State) (w : Word) : step (issue s w) = commandWrite (s.setRdata none) w := by
  have hcmd : accessTarget s.params 32 0x04#32 = some (.reg .cmd .wo) :=
    accessTarget_of_mem (e := (0x04, .cmd, .wo)) (by decide) s.params
  rw [issue, step_withEvent, hostEvent, hostWrite, setRdata_params, hcmd, Option.filter_some_pos rfl]

end Sys2Proof.Machine

namespace Sys2Proof.Claims

open Sys2Proof Sys2Proof.Machine

/-- Settles O14: the decoder inverts the encoder, and a word is determined by the fields it decodes by. -/
theorem decodeEncodeAgree : Obligations.DecodeEncodeAgree :=
  fun _ _ => decode_eq_ok_iff

/-- Settles O7: each of the four conditions is one that the fields of a legal word do not meet. -/
theorem illegalWordRaises : Obligations.IllegalWordRaises := by
  intro s w hrun hillegal
  have hnot : (fieldsOf w).wf = false := by
    rw [Bool.eq_false_iff]
    intro hwf
    obtain ⟨hopc, hreserved, hnc, himm⟩ := fields_wf_iff.mp hwf
    rcases hillegal with h | ⟨hset, h⟩ | ⟨hset, h⟩ | h
    · exact h hreserved
    · exact h (hnc hset)
    · exact h (himm hset)
    · exact h hopc
  obtain ⟨r, hr⟩ := decode_error_of_not_wf hnot
  exact commandWrite_of_error hrun hr

/-- Settles O15: the words of the commands are those that match a row, and the rows are disjoint. -/
theorem decoderFollowsOpcodeMap : Obligations.DecoderFollowsOpcodeMap := by
  refine ⟨fun w => ⟨?_, ?_⟩, fun w r hr r' hr' => row_unique hr hr', ?_, decode_encode .nop,
    decode_error_of_not_wf (by decide)⟩
  · rintro ⟨i, hi⟩
    obtain ⟨r, hr, _, h⟩ := encode_in_table i
    exact ⟨r, hr, encode_of_decode hi ▸ h⟩
  · rintro ⟨r, hr, h⟩
    obtain ⟨i, rfl⟩ := exists_encode_of_matches w r hr h
    exact ⟨i, decode_encode i⟩
  · intro w i hi r hr h
    exact mnemonic_of_matches hr (by rwa [encode_of_decode hi])

/-- Settles O6: the address of the write is that of `CMD`, and taking the event off the port leaves `FAULT` at 0. -/
theorem stepRunsDecodedCommand : Obligations.StepRunsDecodedCommand :=
  ⟨step_issue, fun s w _ hrun hi => (step_issue s w).trans (commandWrite_of_decode (s := s.setRdata none) hrun hi)⟩

/-- Settles O13: each word is the one that its command is encoded as. -/
theorem sampleWordsDecode : Obligations.SampleWordsDecode :=
  ⟨decode_encode .nop, decode_encode .sysReset, decode_encode (.icsAddb 0xF2#8), decode_encode .icsPh,
    decode_encode (.crcAddb 0x31#8), decode_encode .adlAdd, decode_encode (.dnsEnc false), decode_encode (.dnsEnc true)⟩

end Sys2Proof.Claims

/-! PROOF. The Internet checksum of a byte sequence (40_internet_checksum.md R120, R128 to R135): the folded sum as a
function of the integer total of the words, the words of a sequence in pieces, and the unit's registers after a stream. -/

namespace Sys2Proof.Machine

open Sys2Proof

/-! ### The folded sum of an integer total -/

/-- The one's-complement sum of words whose integer total is `t` (R135). -/
def foldedTotal (t : Nat) : Nat := if t = 0 then 0 else (t - 1) % 65535 + 1

@[simp] theorem foldedTotal_eq_zero_iff (t : Nat) : foldedTotal t = 0 ↔ t = 0 := by
  unfold foldedTotal
  split <;> omega

theorem foldedTotal_of_lt {t : Nat} (h : t < 0x10000) : foldedTotal t = t := by
  unfold foldedTotal
  split <;> omega

/-- A total may be folded before more is added to it. -/
theorem foldedTotal_add_left (t r : Nat) : foldedTotal (foldedTotal t + r) = foldedTotal (t + r) := by
  rcases Nat.eq_zero_or_pos t with rfl | ht
  · rfl
  · simp only [foldedTotal, if_neg ht.ne', if_neg (show t + r ≠ 0 by omega),
      if_neg (show (t - 1) % 65535 + 1 + r ≠ 0 by omega)]
    omega

theorem foldedTotal_add_right (t r : Nat) : foldedTotal (t + foldedTotal r) = foldedTotal (t + r) := by
  rw [Nat.add_comm, foldedTotal_add_left, Nat.add_comm]

/-- What is left is congruent to the total modulo 65535, and is 65535 rather than 0 when the total is a positive multiple. -/
theorem foldedTotal_add_complement (t : Nat) : foldedTotal (t + (65535 - foldedTotal t)) = 65535 := by
  rcases Nat.eq_zero_or_pos t with rfl | ht
  · rfl
  · simp only [foldedTotal, if_neg ht.ne', if_neg (show t + (65535 - ((t - 1) % 65535 + 1)) ≠ 0 by omega)]
    omega

/-- The addends that complete a total to the sum 65535. -/
theorem addend_of_foldedTotal_eq {t w : Nat} (hw : w < 0x10000) (h : foldedTotal (t + w) = 65535) :
    w = 65535 - foldedTotal t ∨ w = 65535 ∧ foldedTotal t = 65535 := by
  unfold foldedTotal at h ⊢
  split at h <;> split <;> omega

/-! ### A wide accumulator (R131) -/

/-- One folding step exchanges 65536 for 1, which are congruent modulo 65535. -/
theorem foldedTotal_foldCarry (t : Nat) : foldedTotal (foldCarry t) = foldedTotal t := by
  unfold foldedTotal foldCarry
  split <;> split <;> omega

theorem foldedTotal_foldCarry_iterate (n t : Nat) : foldedTotal (foldCarry^[n] t) = foldedTotal t := by
  induction n generalizing t with
  | zero => rfl
  | succ n ih => rw [Function.iterate_succ_apply, ih, foldedTotal_foldCarry]

theorem foldCarry_lt {t : Nat} (h : 0x10000 ≤ t) : foldCarry t < t := by
  unfold foldCarry
  omega

/-- Folding ends, because each step that is still needed makes the total smaller. -/
theorem exists_foldCarry_iterate_lt (t : Nat) : ∃ n, foldCarry^[n] t < 0x10000 := by
  induction t using Nat.strong_induction_on with
  | _ t ih =>
    rcases Nat.lt_or_ge t 0x10000 with hlt | hge
    · exact ⟨0, hlt⟩
    · obtain ⟨n, hn⟩ := ih (foldCarry t) (foldCarry_lt hge)
      exact ⟨n + 1, hn⟩

/-! ### The one's-complement sum of words -/

/-- The end-around carry of `add1c` is one folding step (00_scope.md R15). -/
theorem add1c_toNat (a b : Half) : (add1c a b).toNat = foldCarry (a.toNat + b.toNat) := by
  have ha := a.isLt
  have hb := b.isLt
  unfold add1c foldCarry
  split
  · rw [BitVec.toNat_add, BitVec.toNat_ofNat, BitVec.toNat_ofNat]
    omega
  · rw [BitVec.toNat_ofNat]
    omega

theorem add1c_toNat_foldedTotal (a b : Half) : (add1c a b).toNat = foldedTotal (a.toNat + b.toNat) := by
  have hlt := (add1c a b).isLt
  rw [← foldedTotal_of_lt hlt, add1c_toNat, foldedTotal_foldCarry]

@[simp] theorem wordTotal_nil : wordTotal [] = 0 := rfl

@[simp] theorem wordTotal_cons (w : Half) (ws : List Half) : wordTotal (w :: ws) = w.toNat + wordTotal ws := by
  simp [wordTotal]

@[simp] theorem wordTotal_append (ws vs : List Half) : wordTotal (ws ++ vs) = wordTotal ws + wordTotal vs := by
  simp [wordTotal]

theorem wordTotal_perm {ws vs : List Half} (h : ws.Perm vs) : wordTotal ws = wordTotal vs :=
  (h.map BitVec.toNat).sum_eq

theorem wordTotal_eq_zero_iff (ws : List Half) : wordTotal ws = 0 ↔ ∀ w ∈ ws, w = 0#16 := by
  simp [wordTotal, List.sum_eq_zero_iff, BitVec.toNat_eq]

theorem foldl_add1c_toNat (ws : List Half) (a : Half) :
    (ws.foldl add1c a).toNat = foldedTotal (a.toNat + wordTotal ws) := by
  induction ws generalizing a with
  | nil => exact (foldedTotal_of_lt a.isLt).symm
  | cons w ws ih => rw [List.foldl_cons, ih, add1c_toNat_foldedTotal, foldedTotal_add_left, wordTotal_cons, Nat.add_assoc]

/-- The closed form of R135. -/
theorem onesSum_toNat (ws : List Half) : (onesSum ws).toNat = foldedTotal (wordTotal ws) := by
  rw [onesSum, foldl_add1c_toNat]
  simp

theorem onesSum_eq_zero_iff (ws : List Half) : onesSum ws = 0#16 ↔ ∀ w ∈ ws, w = 0#16 := by
  rw [BitVec.toNat_eq, onesSum_toNat, ← wordTotal_eq_zero_iff]
  exact foldedTotal_eq_zero_iff _

theorem onesSum_perm {ws vs : List Half} (h : ws.Perm vs) : onesSum ws = onesSum vs := by
  rw [BitVec.toNat_eq, onesSum_toNat, onesSum_toNat, wordTotal_perm h]

theorem onesSum_append (ws vs : List Half) : onesSum (ws ++ vs) = add1c (onesSum ws) (onesSum vs) := by
  rw [BitVec.toNat_eq, add1c_toNat_foldedTotal]
  simp only [onesSum_toNat, wordTotal_append, foldedTotal_add_left, foldedTotal_add_right]

/-! ### The words of a sequence -/

/-- A piece of even length ends on a word boundary. -/
theorem icsWords_append {p : List Byte} (hp : p.length % 2 = 0) (q : List Byte) :
    icsWords (p ++ q) = icsWords p ++ icsWords q := by
  induction p using icsWords.induct with
  | case1 => rfl
  | case2 b => simp at hp
  | case3 a b p ih =>
    have hp' : p.length % 2 = 0 := by simp only [List.length_cons] at hp; omega
    simp only [List.cons_append, icsWords, ih hp']

theorem icsWords_flatten {ps : List (List Byte)} (hps : ∀ p ∈ ps, p.length % 2 = 0) :
    icsWords ps.flatten = ps.flatMap icsWords := by
  induction ps with
  | nil => rfl
  | cons p ps ih =>
    obtain ⟨hp, hps'⟩ := List.forall_mem_cons.mp hps
    rw [List.flatten_cons, icsWords_append hp, ih hps', List.flatMap_cons]

theorem length_flatten_even {ps : List (List Byte)} (hps : ∀ p ∈ ps, p.length % 2 = 0) :
    ps.flatten.length % 2 = 0 := by
  rw [List.length_flatten, ← Nat.dvd_iff_mod_eq_zero]
  refine List.dvd_sum fun n hn => ?_
  obtain ⟨p, hp, rfl⟩ := List.mem_map.mp hn
  exact Nat.dvd_of_mod_eq_zero (hps p hp)

theorem inetChecksum_toNat (bs : List Byte) : (inetChecksum bs).toNat = 65535 - foldedTotal (wordTotal (icsWords bs)) := by
  rw [inetChecksum, BitVec.toNat_not, onesSum_toNat]

/-- A sequence is what stands before its field, the field's two bytes, and what stands after it. -/
theorem exists_field {bs : List Byte} {j : Nat} (h : 2 * j + 1 < bs.length) :
    ∃ p a b q, bs = p ++ a :: b :: q ∧ p.length = 2 * j := by
  refine ⟨bs.take (2 * j), bs[2 * j], bs[2 * j + 1], bs.drop (2 * j + 1 + 1), ?_, ?_⟩
  · rw [List.getElem_cons_drop, List.getElem_cons_drop, List.take_append_drop]
  · rw [List.length_take]
    omega

theorem set_field {p : List Byte} {k : Nat} (hp : p.length = k) (a b c d : Byte) (q : List Byte) :
    ((p ++ a :: b :: q).set k c).set (k + 1) d = p ++ c :: d :: q := by
  subst hp
  simp

/-- The total of the words of a sequence with a field at an even position: that with the field zero, and the field. -/
theorem wordTotal_icsWords_field {p : List Byte} (hp : p.length % 2 = 0) (a b : Byte) (q : List Byte) :
    wordTotal (icsWords (p ++ a :: b :: q)) = wordTotal (icsWords (p ++ 0#8 :: 0#8 :: q)) + (a ++ b).toNat := by
  simp only [icsWords_append hp, icsWords, wordTotal_append, wordTotal_cons]
  rw [show (0#8 ++ 0#8).toNat = 0 from rfl]
  omega

theorem halves_append (v : Half) : v.extractLsb' 8 8 ++ v.extractLsb' 0 8 = v := by
  have hv := v.isLt
  rw [BitVec.toNat_eq, append_toNat, BitVec.extractLsb'_toNat, BitVec.extractLsb'_toNat, Nat.shiftRight_eq_div_pow,
    Nat.shiftRight_zero]
  omega

/-- A sequence verifies when its field completes the rest to 65535. -/
theorem inetChecksum_field_eq_zero_iff {p : List Byte} (hp : p.length % 2 = 0) (a b : Byte) (q : List Byte) :
    inetChecksum (p ++ a :: b :: q) = 0x0000#16 ↔
      foldedTotal (wordTotal (icsWords (p ++ 0#8 :: 0#8 :: q)) + (a ++ b).toNat) = 65535 := by
  have hlt := (onesSum (icsWords (p ++ a :: b :: q))).isLt
  rw [onesSum_toNat] at hlt
  rw [BitVec.toNat_eq, inetChecksum_toNat, ← wordTotal_icsWords_field hp]
  change 65535 - _ = 0 ↔ _
  omega

/-- Self-verification (R132). -/
theorem inetChecksum_of_checksum_field {p : List Byte} (hp : p.length % 2 = 0) (q : List Byte) :
    inetChecksum (p ++ (inetChecksum (p ++ 0#8 :: 0#8 :: q)).extractLsb' 8 8 ::
      (inetChecksum (p ++ 0#8 :: 0#8 :: q)).extractLsb' 0 8 :: q) = 0x0000#16 := by
  rw [inetChecksum_field_eq_zero_iff hp, halves_append, inetChecksum_toNat, foldedTotal_add_complement]

/-- The field of a sequence that verifies is the checksum of the rest, or is 0xFFFF in the place of 0 (R132). -/
theorem field_of_inetChecksum_eq_zero {p : List Byte} (hp : p.length % 2 = 0) {a b : Byte} {q : List Byte}
    (h : inetChecksum (p ++ a :: b :: q) = 0x0000#16) :
    a ++ b = inetChecksum (p ++ 0#8 :: 0#8 :: q) ∨
      a ++ b = 0xFFFF#16 ∧ inetChecksum (p ++ 0#8 :: 0#8 :: q) = 0x0000#16 := by
  have hsum := (inetChecksum_field_eq_zero_iff hp a b q).mp h
  simp only [BitVec.toNat_eq, inetChecksum_toNat]
  rcases addend_of_foldedTotal_eq (a ++ b).isLt hsum with hfield | ⟨hfield, hrest⟩
  · exact .inl hfield
  · exact .inr ⟨hfield, by rw [hrest]; rfl⟩

/-! ### The unit's registers after a stream (R128) -/

theorem icsAbsorb_odd (u : IcsAcc) (b : Byte) : (icsAbsorb u b).odd = !u.odd := by
  unfold icsAbsorb
  cases u.odd <;> rfl

/-- `ODD` after a sequence (R123, "Flags"). -/
theorem icsAbsorbAll_odd (u : IcsAcc) (bs : List Byte) : (icsAbsorbAll u bs).odd = oddAfter u.odd bs.length := by
  induction bs generalizing u with
  | nil => simp [icsAbsorbAll, oddAfter]
  | cons b bs ih =>
    have hcons : icsAbsorbAll u (b :: bs) = icsAbsorbAll (icsAbsorb u b) bs := rfl
    rw [hcons, ih, icsAbsorb_odd, List.length_cons, oddAfter, oddAfter]
    rcases Nat.mod_two_eq_zero_or_one bs.length with h | h <;> simp [Nat.add_mod, h]

/-- Two bytes absorbed on a word boundary add their word to `SUM`. -/
theorem icsAbsorbAll_pair (x : Half) (a b : Byte) (bs : List Byte) :
    icsAbsorbAll ⟨x, 0#8, false⟩ (a :: b :: bs) = icsAbsorbAll ⟨add1c x (a ++ b), 0#8, false⟩ bs := rfl

/-- A piece of even length absorbed on a word boundary adds its words to `SUM`. -/
theorem icsAbsorbAll_of_even {bs : List Byte} (hbs : bs.length % 2 = 0) (x : Half) :
    icsAbsorbAll ⟨x, 0#8, false⟩ bs = ⟨(icsWords bs).foldl add1c x, 0#8, false⟩ := by
  induction bs using icsWords.induct generalizing x with
  | case1 => rfl
  | case2 b => simp at hbs
  | case3 a b bs ih =>
    have hbs' : bs.length % 2 = 0 := by simp only [List.length_cons] at hbs; omega
    rw [icsAbsorbAll_pair, ih hbs', icsWords, List.foldl_cons]

theorem icsAbsorbAll_icsStart_of_even {bs : List Byte} (hbs : bs.length % 2 = 0) :
    icsAbsorbAll icsStart bs = ⟨onesSum (icsWords bs), 0#8, false⟩ :=
  icsAbsorbAll_of_even hbs 0#16

/-- A stream of odd length leaves its last byte pending. -/
theorem icsAbsorbAll_icsStart_concat {p : List Byte} (hp : p.length % 2 = 0) (b : Byte) :
    icsAbsorbAll icsStart (p ++ [b]) = ⟨onesSum (icsWords p), b, true⟩ := by
  rw [icsAbsorbAll_append, icsAbsorbAll_icsStart_of_even hp]
  rfl

/-- A sequence has even length, or is one of even length and a last byte. -/
theorem even_or_concat (bs : List Byte) :
    bs.length % 2 = 0 ∨ ∃ p b, bs = p ++ [b] ∧ p.length % 2 = 0 := by
  rcases List.eq_nil_or_concat' bs with rfl | ⟨p, b, rfl⟩
  · exact .inl rfl
  · rw [List.length_append, List.length_singleton]
    rcases Nat.mod_two_eq_zero_or_one p.length with hp | hp
    · exact .inr ⟨p, b, rfl, hp⟩
    · exact .inl (by omega)

/-- The view `ICS_RESULT` is the checksum of the stream: the pending byte is padded as R120 pads an odd last byte. -/
theorem icsResult_icsAbsorbAll (bs : List Byte) : icsResult (icsAbsorbAll icsStart bs) = inetChecksum bs := by
  rcases even_or_concat bs with hbs | ⟨p, b, rfl, hp⟩
  · rw [icsAbsorbAll_icsStart_of_even hbs]
    rfl
  · rw [icsAbsorbAll_icsStart_concat hp, inetChecksum, icsWords_append hp]
    simp only [onesSum, List.foldl_append]
    rfl

end Sys2Proof.Machine

namespace Sys2Proof.Claims

open Sys2Proof Sys2Proof.Machine

/-- Settles O28: a stream is a part of even length, of which every word is in `SUM`, and at most one byte after it. -/
theorem icsUnitComputesInetChecksum : Obligations.IcsUnitComputesInetChecksum := by
  intro bs
  rcases even_or_concat bs with hbs | ⟨p, b, rfl, hp⟩
  · rw [← icsResult_icsAbsorbAll, icsAbsorbAll_icsStart_of_even hbs, hbs]
    simp
  · have hodd : (p ++ [b]).length % 2 = 1 := by rw [List.length_append, List.length_singleton]; omega
    rw [← icsResult_icsAbsorbAll, icsAbsorbAll_icsStart_concat hp, hodd]
    simp

/-- Settles O29: each clause is the like fact about the integer total, which is all that the sum depends on. -/
theorem onesSumClosedForm : Obligations.OnesSumClosedForm :=
  ⟨onesSum_toNat, onesSum_eq_zero_iff, fun _ _ => onesSum_perm, onesSum_append⟩

/-- Settles O30: folding keeps the sum of the total, and a total below 0x10000 is its own sum. -/
theorem wideAccumulatorAgrees : Obligations.WideAccumulatorAgrees := by
  refine fun ws => ⟨exists_foldCarry_iterate_lt _, fun n hn => ?_⟩
  rw [onesSum_toNat, ← foldedTotal_foldCarry_iterate n, foldedTotal_of_lt hn]

/-- Settles O31: the total of the words is that with the field zero and the field; the checksum is 0 when it folds to
65535, and the field that brings this about is the complement. -/
theorem inetChecksumSelfVerifies : Obligations.InetChecksumSelfVerifies := by
  intro bs j hj z hz
  obtain ⟨p, a, b, q, rfl, hp⟩ := exists_field hj
  have heven : p.length % 2 = 0 := by omega
  rw [set_field hp] at hz
  refine ⟨fun bs' hbs' => ?_, fun hzero => ?_⟩
  · rw [set_field hp] at hbs'
    subst hz hbs'
    have hverifies := inetChecksum_of_checksum_field heven q
    exact ⟨hverifies, (icsResult_icsAbsorbAll _).trans hverifies⟩
  · subst hz
    simpa [← hp] using field_of_inetChecksum_eq_zero heven hzero

/-- Settles O32: after pieces of even length `SUM` is the sum of all their words, whose order does not matter. -/
theorem evenPiecesCommute : Obligations.EvenPiecesCommute := by
  intro ps qs hps hperm
  have hqs : ∀ q ∈ qs, q.length % 2 = 0 := fun q hq => hps q (hperm.mem_iff.mpr hq)
  have hwords : (ps.flatMap icsWords).Perm (qs.flatMap icsWords) := hperm.flatMap_right icsWords
  rw [icsAbsorbAll_icsStart_of_even (length_flatten_even hps), icsAbsorbAll_icsStart_of_even (length_flatten_even hqs),
    icsWords_flatten hps, icsWords_flatten hqs, onesSum_perm hwords]

end Sys2Proof.Claims

/-! PROOF. The commands of the ICS unit (40_internet_checksum.md R122 to R130), and what the three `ADD` commands have in
common: the range test of 20_memory.md R66, and the range absorbed by the command's own unit. -/

namespace Sys2Proof.Machine

open Sys2Proof Sys2Proof.Claims

/-! ### The operands -/

theorem takeFault_eq_faulted {s : State} (hrun : s.fault = false) (c : ErrCode) (pos cmd : Word) :
    takeFault s c pos cmd = faulted s (errCodeByte c) pos cmd := takeFault_of_running hrun c pos cmd

theorem rangeOperand_of_fits {s : State} (h : s.argPtr.toNat + s.argCnt.toNat ≤ s.params.bufSize) :
    rangeOperand s = .ok (rangeBytes s) s := by
  rcases rangeOperand_cases s with ⟨e, _⟩ | ⟨_, hnot⟩
  · exact e
  · omega

theorem rangeOperand_of_not_fits {s : State} (h : s.params.bufSize < s.argPtr.toNat + s.argCnt.toNat) :
    rangeOperand s = .raise .bounds s.argPtr s := by
  rcases rangeOperand_cases s with ⟨_, hfits⟩ | ⟨e, _⟩
  · omega
  · exact e

@[simp] theorem be16_length (v : Half) : (be16 v).length = 2 := rfl

theorem be16_low_half (v : Word) : be16 (v.extractLsb' 0 16) = [v.extractLsb' 8 8, v.extractLsb' 0 8] := by
  rw [be16, ← BitVec.setWidth_eq_extractLsb' (by decide), BitVec.extractLsb'_setWidth_of_le (by decide),
    BitVec.extractLsb'_setWidth_of_le (by decide)]

@[simp] theorem ph4_length (s : State) : (ph4 s).length = 12 := rfl

@[simp] theorem ph6_length (s : State) : (ph6 s).length = 40 := rfl

/-- The pseudo-header that `ICS.PH` absorbs, or the first fault (R127), with the bits of `PH_CTL` written out. -/
theorem phOperand_eq (s : State) : phOperand s =
    if s.phCtl.getLsbD 0 = false ∨ s.phCtl.getLsbD 2 = false then .raise .phNoaddr 0#32 s
    else if s.phCtl.getLsbD 1 ≠ s.phCtl.getLsbD 3 then .raise .phFamily 0#32 s
    else if s.phCtl.getLsbD 1 = false ∧ 0xFFFF < s.phLen.toNat then .raise .phLen 0#32 s
    else .ok (if s.phCtl.getLsbD 1 then ph6 s else ph4 s) s := by
  simp only [phOperand, phSrcValid, phDstValid, phSrcV6, phDstV6]
  rcases Bool.eq_false_or_eq_true s.phCtl[1] with h | h <;> simp [h]

/-! ### The `ADD` commands -/

/-- The three commands that absorb the range of `ARG_PTR` and `ARG_CNT`. -/
def addCommands : List Instr := [.icsAdd, .crcAdd, .adlAdd]

/-- The state with the bytes `bs` absorbed by the unit of an `ADD` command. -/
def absorbed : Instr → List Byte → State → State
  | .icsAdd, bs, s => s.withIcs (icsAbsorbAll s.ics bs)
  | .crcAdd, bs, s => s.setCrc (crcAbsorbAll s.crc bs)
  | .adlAdd, bs, s => s.withAdl (adlAbsorbAll s.adl bs)
  | _, _, s => s

theorem exec_add {i : Instr} (hi : i ∈ addCommands) (s : State) :
    exec i s = finish (encode i) ((rangeOperand s).bind fun bs s => .ok () (absorbed i bs s)) := by
  simp only [addCommands, List.mem_cons, List.not_mem_nil, or_false] at hi
  rcases hi with rfl | rfl | rfl <;> rfl

theorem exec_add_of_fits {i : Instr} (hi : i ∈ addCommands) {s : State}
    (h : s.argPtr.toNat + s.argCnt.toNat ≤ s.params.bufSize) : exec i s = .next (absorbed i (rangeBytes s) s) := by
  rw [exec_add hi, rangeOperand_of_fits h, bind_ok, finish_ok]

theorem exec_add_of_not_fits {i : Instr} (hi : i ∈ addCommands) {s : State}
    (h : s.params.bufSize < s.argPtr.toNat + s.argCnt.toNat) (hrun : s.fault = false) :
    exec i s = .next (faulted s 0x03#8 s.argPtr (encode i)) := by
  rw [exec_add hi, rangeOperand_of_not_fits h, bind_raise, finish_raise, takeFault_eq_faulted hrun]
  rfl

/-- The state with other operands for a range. -/
def State.setRange (s : State) (ptr cnt : Word) : State := { s with argPtr := ptr, argCnt := cnt }

theorem absorbed_append (i : Instr) (bs cs : List Byte) (s : State) :
    absorbed i (bs ++ cs) s = absorbed i cs (absorbed i bs s) := by
  cases i <;> simp only [absorbed, icsAbsorbAll_append, crcAbsorbAll_append, adlAbsorbAll_append] <;> rfl

theorem absorbed_setRange (i : Instr) (bs : List Byte) (s : State) (ptr cnt : Word) :
    absorbed i bs (s.setRange ptr cnt) = (absorbed i bs s).setRange ptr cnt := by
  cases i <;> rfl

@[simp] theorem absorbed_params (i : Instr) (bs : List Byte) (s : State) : (absorbed i bs s).params = s.params := by
  cases i <;> rfl

/-- Absorbing a range leaves `BUF` as it is. -/
@[simp] theorem bufRead_absorbed (i : Instr) (bs : List Byte) (s : State) (a : Nat) :
    bufRead (absorbed i bs s) a = bufRead s a := by
  cases i <;> rfl

theorem exec_add_setRange {i : Instr} (hi : i ∈ addCommands) {s : State} {ptr : Word} {n : Nat}
    (hp : s.params.wf = true) (h : ptr.toNat + n ≤ s.params.bufSize) :
    exec i (s.setRange ptr (BitVec.ofNat 32 n)) =
      .next ((absorbed i (memRead s ptr.toNat n) s).setRange ptr (BitVec.ofNat 32 n)) := by
  obtain ⟨hbuf, _⟩ := Params.sizes_lt hp
  have hn : (BitVec.ofNat 32 n).toNat = n := BitVec.toNat_ofNat n 32 ▸ Nat.mod_eq_of_lt (by omega)
  have hbytes : rangeBytes (s.setRange ptr (BitVec.ofNat 32 n)) = memRead s ptr.toNat n := by
    simp only [rangeBytes, State.setRange, hn]
    exact memRead_congr fun _ _ => rfl
  rw [exec_add_of_fits hi (by simpa only [State.setRange, hn] using h), hbytes, absorbed_setRange]

/-! ### `ICS.PH` -/

theorem exec_icsPh_of_ok {s : State} {bs : List Byte} (h : phOperand s = .ok bs s) :
    exec .icsPh s = .next (s.withIcs (icsAbsorbAll s.ics bs)) := by
  rw [exec, execIcsPh, h, bind_ok, finish_ok]

theorem exec_icsPh_of_raise {s : State} {c : ErrCode} {pos : Word} (h : phOperand s = .raise c pos s)
    (hrun : s.fault = false) : exec .icsPh s = .next (faulted s (errCodeByte c) pos 0x13000000#32) := by
  rw [exec, execIcsPh, h, bind_raise, finish_raise, takeFault_eq_faulted hrun]
  rfl

/-- Both pseudo-headers have even length, so absorbing one leaves `ODD` as it is. -/
theorem icsAbsorbAll_pseudoHeader_odd (s : State) (c : Prop) [Decidable c] (u : IcsAcc) :
    (icsAbsorbAll u (if c then ph4 s else ph6 s)).odd = u.odd := by
  rw [icsAbsorbAll_odd]
  split <;> simp [oddAfter]

/-! ### `ICS.PUT` -/

theorem exec_icsPut_of_fits {s : State} (h : s.argPtr.toNat + 2 ≤ s.params.bufSize) :
    exec .icsPut s = .next (memWrite s s.argPtr.toNat (be16 (icsResult s.ics))) := by
  rw [exec, execIcsPut, rangeFits, decide_eq_true h]
  rfl

theorem exec_icsPut_of_not_fits {s : State} (h : s.params.bufSize < s.argPtr.toNat + 2) (hrun : s.fault = false) :
    exec .icsPut s = .next (faulted s 0x03#8 s.argPtr 0x15000000#32) := by
  rw [exec, execIcsPut, rangeFits, decide_eq_false (by omega), if_neg Bool.false_ne_true, finish_raise,
    takeFault_eq_faulted hrun]
  rfl

theorem icsResultView_extractLsb' (s : State) {k : Nat} (hk : k + 8 ≤ 32) :
    (readReg s .icsResult).extractLsb' k 8 = (icsResult s.ics).extractLsb' k 8 := by
  rw [readReg, BitVec.extractLsb'_setWidth_of_le hk]

end Sys2Proof.Machine

namespace Sys2Proof.Claims

open Sys2Proof Sys2Proof.Machine

/-- Settles O24: the parity of the range's length is the lowest bit of `ARG_CNT`, and an empty range has no bytes. -/
theorem icsAddAbsorbsRange : Obligations.IcsAddAbsorbsRange := by
  refine ⟨rfl, fun s => ⟨fun h => ?_, exec_add_of_not_fits (by decide)⟩⟩
  refine ⟨_, exec_add_of_fits (by decide) h, ⟨_, rfl, rfl⟩, ?_, fun hzero => ?_⟩
  · change (icsAbsorbAll s.ics (rangeBytes s)).odd = _
    rw [icsAbsorbAll_odd, rangeBytes, memRead_length, oddAfter, BitVec.getLsbD, Nat.testBit_zero]
    rfl
  · have hempty : rangeBytes s = [] := by rw [rangeBytes, hzero]; rfl
    rw [hempty]
    rfl

/-- Settles O26: the bits of the two legal values of `PH_CTL` pass the tests. -/
theorem icsPhAbsorbsPseudoHeader : Obligations.IcsPhAbsorbsPseudoHeader := by
  refine ⟨rfl, fun s => ⟨fun hctl => ?_, fun hrun => ?_⟩⟩
  · have hok : phOperand s = .ok (if s.phCtl = 0x5#4 then ph4 s else ph6 s) s := by
      rw [phOperand_eq]
      rcases hctl with ⟨hctl, hlen⟩ | hctl
      · simp [hctl, hlen]
      · simp [hctl]
    refine ⟨_, _, exec_icsPh_of_ok hok, rfl, rfl, ?_⟩
    exact icsAbsorbAll_pseudoHeader_odd s _ s.ics
  · have heq := phOperand_eq s
    split_ifs at heq ⊢
    · exact exec_icsPh_of_raise heq hrun
    · exact exec_icsPh_of_raise heq hrun
    · exact exec_icsPh_of_raise heq hrun
    · exact exec_icsPh_of_ok heq
    · exact exec_icsPh_of_ok heq

/-- Settles O27: `ICS.PUT` is a write of two bytes. -/
theorem icsPutStoresResult : Obligations.IcsPutStoresResult := by
  refine ⟨rfl, fun s => ⟨fun h => ?_, exec_icsPut_of_not_fits⟩⟩
  refine ⟨_, exec_icsPut_of_fits h, memWrite_eq s _ _, ?_, ?_, fun a hfirst hsecond => ?_⟩
  · rw [bufRead_memWrite, if_pos (by simp), icsResultView_extractLsb' s (by decide)]
    simp [be16]
  · rw [bufRead_memWrite, if_pos (by simp), icsResultView_extractLsb' s (by decide)]
    simp [be16]
  · exact bufRead_memWrite_other s (by rw [be16_length]; omega)

/-- Settles O42: the bytes of the whole range are those of its parts, and the first command leaves `BUF` as it is. -/
theorem splitRangesAgree : Obligations.SplitRangesAgree := by
  intro s t u v n m hfits hp i hi ht hu hv
  obtain ⟨hbuf, _⟩ := Params.sizes_lt hp
  have hptr : (s.argPtr + BitVec.ofNat 32 n).toNat = s.argPtr.toNat + n := by
    simp only [BitVec.toNat_add, BitVec.toNat_ofNat]
    omega
  have ht' := (exec_add_setRange hi (ptr := s.argPtr) (n := n + m) hp (by omega)).symm.trans ht
  have hu' := (exec_add_setRange hi (ptr := s.argPtr) (n := n) hp (by omega)).symm.trans hu
  cases ht'
  cases hu'
  have hv' := (exec_add_setRange hi (s := absorbed i (memRead s s.argPtr.toNat n) s)
    (ptr := s.argPtr + BitVec.ofNat 32 n) (n := m) (by rwa [absorbed_params])
    (by rwa [hptr, absorbed_params])).symm.trans hv
  cases hv'
  rw [hptr, memRead_congr fun _ _ => bufRead_absorbed i _ s _, ← absorbed_append, ← memRead_add]
  rfl

/-- Settles O22: the two views show the unit's registers only, and these are left as after reset. -/
theorem icsInitStartsStream : Obligations.IcsInitStartsStream :=
  ⟨rfl, fun _ => ⟨_, rfl, rfl, rfl, resetWith_icsSumView Config.exampleParams,
    resetWith_icsResultView Config.exampleParams⟩, fun _ => rfl⟩

/-- Settles O23: the two cases are those of `IcsAbsorb` (R121). -/
theorem icsAddbAbsorbsByte : Obligations.IcsAddbAbsorbsByte := by
  refine fun s b => ⟨rfl, ?_⟩
  change Host.Outcome.next (s.withIcs (icsAbsorb s.ics b)) = _
  rw [withIcs_eq, icsAbsorb]
  cases h : s.odd with
  | false => simp [State.ics, h]
  | true => simp [State.ics, h]

/-- Settles O25: each register is laid out by `be32` or `be16`. -/
theorem pseudoHeaderBytes : Obligations.PseudoHeaderBytes := by
  refine fun s => ⟨?_, ph4_length s, ?_, ph6_length s, fun _ => rfl⟩
  · rw [ph4, be16_low_half]
    rfl
  · simp only [ph6, List.append_assoc]
    rfl

end Sys2Proof.Claims

/-! PROOF. CRC-32C (41_crc32c.md): a shift is linear over exclusive or, and a word whose low bits are zero is shifted without
the polynomial. So the table may be read a byte at a time (R158), and a word absorbed least significant byte first is one
exclusive or and 32 shifts, which gives the residue (R160). -/

namespace Sys2Proof.Machine

open Sys2Proof

/-! ### The shift is linear -/

/-- The shift as one expression: the polynomial is added when a one leaves the register (R151). -/
theorem crcShift_eq (r : Word) : crcShift r = r >>> 1 ^^^ if r.getLsbD 0 then crcPolyReflected else 0#32 := by
  unfold crcShift
  split <;> simp

theorem crcShift_xor (x y : Word) : crcShift (x ^^^ y) = crcShift x ^^^ crcShift y := by
  simp only [crcShift_eq, BitVec.ushiftRight_xor_distrib, BitVec.getLsbD_xor]
  have hpoly (p q : Bool) : (if p ^^ q then crcPolyReflected else 0#32) =
      (if p then crcPolyReflected else 0#32) ^^^ if q then crcPolyReflected else 0#32 := by
    cases p <;> cases q <;> rfl
  rw [hpoly]
  ac_rfl

theorem crcShifts_xor (n : Nat) (x y : Word) : crcShifts n (x ^^^ y) = crcShifts n x ^^^ crcShifts n y := by
  induction n generalizing x y with
  | zero => rfl
  | succ n ih => rw [crcShifts, crcShift_xor, ih, crcShifts, crcShifts]

theorem crcShifts_add (m n : Nat) (r : Word) : crcShifts (m + n) r = crcShifts n (crcShifts m r) := by
  induction m generalizing r with
  | zero => rw [Nat.zero_add, crcShifts]
  | succ m ih => rw [Nat.succ_add, crcShifts, ih, crcShifts]

/-- As long as only zeros leave the register, the polynomial is not added. -/
theorem crcShifts_of_low_bits_zero {n : Nat} {r : Word} (h : ∀ i < n, r.getLsbD i = false) :
    crcShifts n r = r >>> n := by
  induction n generalizing r with
  | zero => simp [crcShifts]
  | succ n ih =>
    have hshift : crcShift r = r >>> 1 := by
      rw [crcShift_eq, h 0 (Nat.succ_pos n)]
      exact BitVec.xor_zero
    have hlow : ∀ i < n, (r >>> 1).getLsbD i = false := fun i hi => by
      rw [BitVec.getLsbD_ushiftRight]
      exact h (1 + i) (by omega)
    rw [crcShifts, hshift, ih hlow, ← BitVec.shiftRight_add, Nat.add_comm]

/-! ### The table form -/

theorem eq_low_byte_xor_high_bits (r : Word) : r = (r.extractLsb' 0 8).setWidth 32 ^^^ (r >>> 8) <<< 8 := by
  ext i hi
  by_cases h : i < 8
  · simp [h, hi]
  · simp [h, hi, Nat.add_sub_cancel' (Nat.le_of_not_lt h)]

/-- Eight shifts move the high bits down and put the table entry of the low byte in (R158). -/
theorem crcShifts_eight (r : Word) : crcShifts 8 r = crcTable (r.extractLsb' 0 8) ^^^ r >>> 8 := by
  have hlow : ∀ i < 8, ((r >>> 8) <<< 8).getLsbD i = false := fun i hi => by simp [hi]
  have hhigh : ((r >>> 8) <<< 8) >>> 8 = r >>> 8 := by
    ext i hi
    by_cases h : 8 + i < 32
    · simp [h]
    · simp [h, BitVec.getLsbD_of_ge r (8 + i) (Nat.le_of_not_lt h)]
  conv_lhs => rw [eq_low_byte_xor_high_bits r, crcShifts_xor, crcShifts_of_low_bits_zero hlow, hhigh]
  rfl

theorem crcAbsorb_eq_crcShifts (crc : Word) (b : Byte) : crcAbsorb crc b = crcShifts 8 (crc ^^^ b.setWidth 32) := by
  have hhigh : (crc ^^^ b.setWidth 32) >>> 8 = crc >>> 8 := by
    ext i hi
    simp
  rw [crcAbsorb, crcShifts_eight, hhigh]

/-! ### A word absorbed, least significant byte first -/

/-- Of a word in the register, eight shifts absorb the low byte and bring the next one down. -/
theorem crcShifts_eight_xor (crc c : Word) :
    crcShifts 8 (crc ^^^ c) = crcAbsorb crc (c.extractLsb' 0 8) ^^^ c >>> 8 := by
  have hlow : (crc ^^^ (c.extractLsb' 0 8).setWidth 32).extractLsb' 0 8 = (crc ^^^ c).extractLsb' 0 8 := by
    ext i hi
    simp [hi, show i < 32 by omega]
  rw [crcShifts_eight, crcAbsorb, hlow, BitVec.ushiftRight_xor_distrib, BitVec.xor_assoc]

theorem extractLsb'_ushiftRight (c : Word) (k : Nat) : (c >>> k).extractLsb' 0 8 = c.extractLsb' k 8 := by
  ext i hi
  simp

theorem crcAbsorbAll_be32_reverse (crc c : Word) : crcAbsorbAll crc (be32 c).reverse = crcShifts 32 (crc ^^^ c) := by
  rw [crcShifts_add 8 24, crcShifts_eight_xor, crcShifts_add 8 16, crcShifts_eight_xor, crcShifts_add 8 8,
    crcShifts_eight_xor, crcShifts_eight_xor]
  simp only [← BitVec.shiftRight_add, extractLsb'_ushiftRight]
  rw [BitVec.ushiftRight_eq_zero (by decide), BitVec.xor_zero]
  rfl

/-- The state after a stream and its own CRC depends on `CRC_XOROUT` only (R160). -/
theorem crcAbsorbAll_append_crc32c (init xorout : Word) (bs : List Byte) :
    crcAbsorbAll init (bs ++ (be32 (crc32c init xorout bs)).reverse) = crcShifts 32 xorout := by
  rw [crcAbsorbAll_append, crcAbsorbAll_be32_reverse, crc32c, ← BitVec.xor_assoc, BitVec.xor_self, BitVec.zero_xor]

theorem crcShifts_32_ones : crcShifts 32 0xFFFFFFFF#32 = 0xB798B438#32 := by
  simp [crcShifts, crcShift, crcPolyReflected]

theorem crcShifts_32_zero : crcShifts 32 0#32 = 0#32 :=
  crcShifts_of_low_bits_zero fun _ _ => BitVec.getLsbD_zero

end Sys2Proof.Machine

namespace Sys2Proof.Claims

open Sys2Proof Sys2Proof.Machine

/-- Settles O36: of the exclusive or of state and byte, the low byte passes through the table and the rest is moved down. -/
theorem crcTableEqualsBitSerial : Obligations.CrcTableEqualsBitSerial := crcAbsorb_eq_crcShifts

/-- Settles O37: feeding the CRC cancels the state but for `CRC_XOROUT`, of which 32 shifts are the residue. -/
theorem crcResidueIsConstant : Obligations.CrcResidueIsConstant := by
  refine fun bs => ⟨?_, ?_⟩
  · rintro c rfl
    have hstate := (crcAbsorbAll_append_crc32c 0xFFFFFFFF#32 0xFFFFFFFF#32 bs).trans crcShifts_32_ones
    exact ⟨hstate, by rw [crc32c, hstate]; rfl⟩
  · rintro c rfl
    rw [crc32c, crcAbsorbAll_append_crc32c, crcShifts_32_zero, BitVec.xor_zero]

/-- Settles O35: `CRC.ADD` is one of the three `ADD` commands, and an empty range has no bytes. -/
theorem crcAddAbsorbsRange : Obligations.CrcAddAbsorbsRange := by
  refine ⟨rfl, fun s => ⟨exec_add_of_fits (by decide), fun hzero hptr => ?_, exec_add_of_not_fits (by decide)⟩⟩
  have hfits : s.argPtr.toNat + s.argCnt.toNat ≤ s.params.bufSize := by rw [hzero]; exact hptr
  have hempty : rangeBytes s = [] := by rw [rangeBytes, hzero]; rfl
  rw [exec_add_of_fits (by decide) hfits, hempty]
  rfl

/-- Settles O33: the two views show `CRC` and the parameters only, and `CRC` is `CRC_INIT` after reset. -/
theorem crcInitStartsStream : Obligations.CrcInitStartsStream :=
  ⟨rfl, fun _ => ⟨_, rfl, rfl, rfl, rfl, rfl⟩, fun _ => rfl⟩

/-- Settles O34: `CRC.ADDB` is `CrcAbsorb` of its byte, and a sequence is absorbed from the left (R153). -/
theorem crcAddbAbsorbsByte : Obligations.CrcAddbAbsorbsByte :=
  ⟨fun _ _ => ⟨rfl, rfl⟩, fun _ => rfl, fun _ _ _ => rfl⟩

end Sys2Proof.Claims

/-! PROOF. Adler-32 (42_adler32.md): both registers hold exact remainders, so that a byte absorbed adds to the sums behind
them (R171), and a stream is summed from its last byte backwards (R170). -/

namespace Sys2Proof.Machine

open Sys2Proof

/-! ### One byte -/

theorem adlAbsorb_a_toNat (u : AdlAcc) (x : Byte) : (adlAbsorb u x).a.toNat = (u.a.toNat + x.toNat) % 65521 := by
  simp only [adlAbsorb, adlerMod, BitVec.toNat_ofNat]
  omega

/-- The second sum takes the new value of the first (R171). -/
theorem adlAbsorb_b_toNat (u : AdlAcc) (x : Byte) :
    (adlAbsorb u x).b.toNat = (u.b.toNat + (adlAbsorb u x).a.toNat) % 65521 := by
  simp only [adlAbsorb, adlerMod, BitVec.toNat_ofNat]
  omega

/-! ### A stream -/

theorem adlAbsorbAll_concat (u : AdlAcc) (bs : List Byte) (b : Byte) :
    adlAbsorbAll u (bs ++ [b]) = adlAbsorb (adlAbsorbAll u bs) b := adlAbsorbAll_append u bs [b]

/-- The values that `A` takes after each byte of a stream (R170). -/
def successiveA (bs : List Byte) : List Nat :=
  (List.range bs.length).map fun k => (adlAbsorbAll adlStart (bs.take (k + 1))).a.toNat

/-- One more byte adds one more value and leaves the earlier ones: they depend on the bytes before them only. -/
theorem successiveA_concat (bs : List Byte) (b : Byte) :
    successiveA (bs ++ [b]) = successiveA bs ++ [(adlAbsorbAll adlStart (bs ++ [b])).a.toNat] := by
  have hearlier : ∀ k ∈ List.range bs.length, (bs ++ [b]).take (k + 1) = bs.take (k + 1) := fun k hk =>
    List.take_append_of_le_length (List.mem_range.mp hk)
  have hlast : (bs ++ [b]).take (bs.length + 1) = bs ++ [b] := List.take_of_length_le (by simp)
  rw [successiveA, List.length_append, List.length_singleton, List.range_succ, List.map_append, List.map_singleton, hlast,
    List.map_congr_left fun k hk => by rw [hearlier k hk], successiveA]

theorem adlAbsorbAll_a_toNat (bs : List Byte) :
    (adlAbsorbAll adlStart bs).a.toNat = (1 + (bs.map BitVec.toNat).sum) % 65521 := by
  induction bs using List.reverseRecOn with
  | nil => rfl
  | append_singleton bs b ih =>
    rw [adlAbsorbAll_concat, adlAbsorb_a_toNat, ih, Nat.mod_add_mod, List.map_append, List.sum_append, Nat.add_assoc]
    rfl

theorem adlAbsorbAll_b_toNat (bs : List Byte) :
    (adlAbsorbAll adlStart bs).b.toNat = (successiveA bs).sum % 65521 := by
  induction bs using List.reverseRecOn with
  | nil => rfl
  | append_singleton bs b ih =>
    rw [successiveA_concat, adlAbsorbAll_concat, adlAbsorb_b_toNat, ih, Nat.mod_add_mod, List.sum_append,
      List.sum_singleton]

/-! ### An empty range -/

theorem exec_add_of_empty {i : Instr} (hi : i ∈ addCommands) {s : State} (hzero : s.argCnt = 0#32)
    (hptr : s.argPtr.toNat ≤ s.params.bufSize) : exec i s = .next (absorbed i [] s) := by
  have hfits : s.argPtr.toNat + s.argCnt.toNat ≤ s.params.bufSize := by rw [hzero]; exact hptr
  have hempty : rangeBytes s = [] := by rw [rangeBytes, hzero]; rfl
  rw [exec_add_of_fits hi hfits, hempty]

end Sys2Proof.Machine

namespace Sys2Proof.Claims

open Sys2Proof Sys2Proof.Machine

/-- Settles O40: `ADL.ADD` is one of the three `ADD` commands, and absorbing no bytes leaves `A` and `B` as they are. -/
theorem adlAddAbsorbsRange : Obligations.AdlAddAbsorbsRange :=
  ⟨rfl, fun _ => ⟨fun hfits => ⟨_, rfl, exec_add_of_fits (by decide) hfits⟩, exec_add_of_empty (by decide),
    exec_add_of_not_fits (by decide)⟩⟩

/-- Settles O41: each further byte adds itself to the one sum and the new `A` to the other. -/
theorem adlerClosedForm : Obligations.AdlerClosedForm :=
  fun bs => ⟨adlAbsorbAll_a_toNat bs, adlAbsorbAll_b_toNat bs, rfl⟩

/-- Settles O38: `ADL_SUM` shows the unit's registers only, and these are left as after reset. -/
theorem adlInitStartsStream : Obligations.AdlInitStartsStream :=
  ⟨rfl, fun _ => ⟨_, rfl, rfl, rfl, resetWith_adlSumView Config.exampleParams⟩, fun _ => rfl⟩

/-- Settles O39: `ADL.ADDB` is `AdlAbsorb` of its byte. -/
theorem adlAddbAbsorbsByte : Obligations.AdlAddbAbsorbsByte :=
  fun s b => ⟨rfl, _, rfl, rfl, adlAbsorb_a_toNat s.adl b, adlAbsorb_b_toNat s.adl b⟩

end Sys2Proof.Claims

/-! PROOF. The byte operations of the DNS unit (43_dns_name.md R192 to R194) as one equation each: where `DNS_POS` and
`NAME_LEN` stand, which bytes of the message are read, which of `BUF` and `NAME` are written. -/

namespace Sys2Proof.Machine

open Sys2Proof Sys2Proof.Claims

/-! ### `DNS_POS` moved on -/

/-- `s` with `DNS_POS` moved on by `n` bytes. -/
def advance (n : Nat) (s : State) : State := s.setDnsPos (BitVec.ofNat 32 (s.dnsPos.toNat + n))

section

variable (n : Nat) (s : State)

@[simp] theorem advance_dnsPos : (advance n s).dnsPos = BitVec.ofNat 32 (s.dnsPos.toNat + n) := rfl
@[simp] theorem advance_dnsBase : (advance n s).dnsBase = s.dnsBase := rfl
@[simp] theorem advance_dnsLen : (advance n s).dnsLen = s.dnsLen := rfl
@[simp] theorem advance_nameLen : (advance n s).nameLen = s.nameLen := rfl
@[simp] theorem advance_dreg : (advance n s).dreg = s.dreg := rfl
@[simp] theorem advance_params : (advance n s).params = s.params := rfl
@[simp] theorem bufRead_advance (a : Nat) : bufRead (advance n s) a = bufRead s a := rfl
@[simp] theorem nameRead_advance (i : Nat) : nameRead (advance n s) i = nameRead s i := rfl

end

theorem dnsPos_add (s : State) (n : Nat) : s.dnsPos + BitVec.ofNat 32 n = BitVec.ofNat 32 (s.dnsPos.toNat + n) := by
  rw [BitVec.ofNat_add, BitVec.ofNat_toNat, BitVec.setWidth_eq]

theorem advance_zero (s : State) : advance 0 s = s := by
  simp [advance, State.setDnsPos]

theorem advance_advance (m n : Nat) (s : State) : advance m (advance n s) = advance (n + m) s := by
  have hpos : BitVec.ofNat 32 ((advance n s).dnsPos.toNat + m) = BitVec.ofNat 32 (s.dnsPos.toNat + (n + m)) := by
    apply BitVec.eq_of_toNat_eq
    simp only [advance_dnsPos, BitVec.toNat_ofNat, Nat.mod_add_mod, Nat.add_assoc]
  rw [advance, hpos]
  rfl

/-- Below `DNS_LEN` the position does not wrap. -/
theorem dnsPos_advance {n : Nat} {s : State} (h : s.dnsPos.toNat + n ≤ s.dnsLen.toNat) :
    (advance n s).dnsPos.toNat = s.dnsPos.toNat + n := by
  have := s.dnsLen.isLt
  simp only [advance_dnsPos, BitVec.toNat_ofNat]
  omega

/-! ### The message -/

/-- The message of `s` holds the bytes `bs` from the position `p` on. -/
def HoldsAt (s : State) (p : Nat) (bs : List Byte) : Prop := memRead s (s.dnsBase.toNat + p) bs.length = bs

theorem holdsAt_cons (s : State) (p : Nat) (b : Byte) (bs : List Byte) :
    HoldsAt s p (b :: bs) ↔ messageByte s p = b ∧ HoldsAt s (p + 1) bs := by
  rw [HoldsAt, List.length_cons, memRead, List.cons.injEq]
  rfl

theorem holdsAt_append (s : State) (p : Nat) (a b : List Byte) :
    HoldsAt s p (a ++ b) ↔ HoldsAt s p a ∧ HoldsAt s (p + a.length) b := by
  induction a generalizing p with
  | nil => simp [HoldsAt, memRead]
  | cons x a ih =>
    rw [List.cons_append, holdsAt_cons, holdsAt_cons, ih, and_assoc, List.length_cons,
      show p + 1 + a.length = p + (a.length + 1) by omega]

/-- What the message holds depends on `BUF` and `DNS_BASE` only. -/
theorem HoldsAt.congr {s t : State} {p : Nat} {bs : List Byte} (h : HoldsAt s p bs) (hbase : t.dnsBase = s.dnsBase)
    (hread : ∀ a, bufRead t a = bufRead s a) : HoldsAt t p bs := by
  rw [HoldsAt, hbase, memRead_congr fun k _ => hread _]
  exact h

theorem messageHolds_iff (s : State) (bs : List Byte) : messageHolds s bs ↔ HoldsAt s s.dnsPos.toNat bs := by
  constructor
  · intro h
    refine List.ext_getElem (memRead_length _ _ _) fun k _ hk => ?_
    rw [memRead_getElem, Nat.add_assoc]
    exact (h k hk).trans (List.getD_eq_getElem _ _ hk)
  · intro h k hk
    have hbyte := memRead_getElem s (s.dnsBase.toNat + s.dnsPos.toNat) bs.length k (by simpa using hk)
    rw [List.getD_eq_getElem _ _ hk, messageByte, ← Nat.add_assoc, ← hbyte]
    congr 1

theorem dnsRd8_of_lt {s : State} (h : s.dnsPos.toNat < s.dnsLen.toNat) :
    dnsRd8 s = .ok (messageByte s s.dnsPos.toNat) (advance 1 s) := by
  rcases dnsRd8_cases s with ⟨e, _⟩ | ⟨_, hle⟩
  · rw [e, dnsPos_add]
    rfl
  · omega

theorem dnsRd8_of_le {s : State} (h : s.dnsLen.toNat ≤ s.dnsPos.toNat) : dnsRd8 s = .raise .dnsUnderrun s.dnsPos s := by
  rcases dnsRd8_cases s with ⟨_, hlt⟩ | ⟨e, _⟩
  · omega
  · exact e

/-! ### Bytes written to the message -/

theorem memWrite_advance (n : Nat) (s : State) (a : Nat) (v : List Byte) :
    memWrite (advance n s) a v = advance n (memWrite s a v) := by
  induction v generalizing s a with
  | nil => rfl
  | cons b v ih => exact ih (bufWrite s a b) (a + 1)

theorem memWrite_append (s : State) (a : Nat) (v w : List Byte) :
    memWrite s a (v ++ w) = memWrite (memWrite s a v) (a + v.length) w := by
  induction v generalizing s a with
  | nil => rfl
  | cons b v ih =>
    rw [List.cons_append, memWrite, ih, memWrite, List.length_cons, show a + 1 + v.length = a + (v.length + 1) by omega]

/-- `s` with the bytes `bs` written at `DNS_POS` and `DNS_POS` after them. -/
def emit (bs : List Byte) (s : State) : State := advance bs.length (memWrite s (dnsAddr s) bs)

/-- Writing to the message changes `DNS_POS` and `BUF` only. -/
theorem emit_eq (bs : List Byte) (s : State) :
    emit bs s = { s with dnsPos := BitVec.ofNat 32 (s.dnsPos.toNat + bs.length), buf := (emit bs s).buf } := by
  rw [emit, memWrite_eq]
  rfl

section

variable (bs : List Byte) (s : State)

@[simp] theorem emit_dnsPos : (emit bs s).dnsPos = BitVec.ofNat 32 (s.dnsPos.toNat + bs.length) := by rw [emit_eq]
@[simp] theorem emit_dnsBase : (emit bs s).dnsBase = s.dnsBase := by rw [emit_eq]
@[simp] theorem emit_dnsLen : (emit bs s).dnsLen = s.dnsLen := by rw [emit_eq]
@[simp] theorem emit_ereg : (emit bs s).ereg = s.ereg := by rw [emit_eq]
@[simp] theorem emit_params : (emit bs s).params = s.params := by rw [emit_eq]
@[simp] theorem emit_epoch : (emit bs s).epoch = s.epoch := by rw [emit_eq]
@[simp] theorem emit_fault : (emit bs s).fault = s.fault := by rw [emit_eq]

end

theorem dnsPos_emit {bs : List Byte} {s : State} (h : s.dnsPos.toNat + bs.length ≤ s.dnsLen.toNat) :
    (emit bs s).dnsPos.toNat = s.dnsPos.toNat + bs.length := by
  have := s.dnsLen.isLt
  simp only [emit_dnsPos, BitVec.toNat_ofNat]
  omega

theorem emit_append {a : List Byte} {s : State} (h : s.dnsPos.toNat + a.length ≤ s.dnsLen.toNat) (b : List Byte) :
    emit (a ++ b) s = emit b (emit a s) := by
  have haddr : dnsAddr (emit a s) = dnsAddr s + a.length := by
    rw [dnsAddr, dnsPos_emit h, emit_dnsBase, dnsAddr, Nat.add_assoc]
  rw [emit, emit, haddr, emit, memWrite_advance, ← memWrite_append, advance_advance, List.length_append]

@[simp] theorem emit_nil (s : State) : emit [] s = s := advance_zero s

theorem bufRead_emit (bs : List Byte) (s : State) (a : Nat) :
    bufRead (emit bs s) a =
      if dnsAddr s ≤ a ∧ a < dnsAddr s + bs.length then bs.getD (a - dnsAddr s) 0#8 else bufRead s a :=
  bufRead_memWrite s (dnsAddr s) bs a

theorem dnsWr8_of_lt {s : State} (h : s.dnsPos.toNat < s.dnsLen.toNat) (b : Byte) :
    dnsWr8 b s = .ok () (emit [b] s) := by
  rcases dnsWr8_cases b s with ⟨e, _⟩ | ⟨_, hle⟩
  · rw [e, dnsPos_add]
    rfl
  · omega

theorem dnsWr8_of_le {s : State} (h : s.dnsLen.toNat ≤ s.dnsPos.toNat) (b : Byte) :
    dnsWr8 b s = .raise .dnsOverrun s.dnsPos s := by
  rcases dnsWr8_cases b s with ⟨_, hlt⟩ | ⟨e, _⟩
  · omega
  · exact e

theorem dnsWr8_eq_dnsWrAll (b : Byte) (s : State) : dnsWr8 b s = dnsWrAll [b] s := by
  rcases dnsWr8_cases b s with ⟨e, _⟩ | ⟨e, _⟩ <;> rw [dnsWrAll, e] <;> rfl

theorem dnsWrAll_append (a b : List Byte) (s : State) :
    dnsWrAll (a ++ b) s = (dnsWrAll a s).bind fun _ t => dnsWrAll b t := by
  induction a generalizing s with
  | nil => rfl
  | cons x a ih =>
    rcases dnsWr8_cases x s with ⟨e, _⟩ | ⟨e, _⟩ <;> simp only [List.cons_append, dnsWrAll, e, bind_ok, bind_raise]
    exact ih _

theorem dnsWrAll_of_room {bs : List Byte} {s : State} (h : s.dnsPos.toNat + bs.length ≤ s.dnsLen.toNat) :
    dnsWrAll bs s = .ok () (emit bs s) := by
  induction bs generalizing s with
  | nil => rw [emit_nil, dnsWrAll]
  | cons b bs ih =>
    rw [List.length_cons] at h
    have hone : s.dnsPos.toNat + [b].length ≤ s.dnsLen.toNat := by simp only [List.length_singleton]; omega
    have hrest : (emit [b] s).dnsPos.toNat + bs.length ≤ (emit [b] s).dnsLen.toNat := by
      rw [dnsPos_emit hone, emit_dnsLen, List.length_singleton]
      omega
    rw [dnsWrAll, dnsWr8_of_lt (by omega), bind_ok, ih hrest, ← emit_append hone, List.singleton_append]

/-- Without room for all of the bytes those that fit are written, and the fault stands at `DNS_LEN`. -/
theorem dnsWrAll_of_no_room {bs : List Byte} {s : State} (hpos : s.dnsPos.toNat ≤ s.dnsLen.toNat)
    (h : s.dnsLen.toNat < s.dnsPos.toNat + bs.length) :
    dnsWrAll bs s = .raise .dnsOverrun s.dnsLen (emit (bs.take (s.dnsLen.toNat - s.dnsPos.toNat)) s) := by
  have hlen : (bs.take (s.dnsLen.toNat - s.dnsPos.toNat)).length = s.dnsLen.toNat - s.dnsPos.toNat := by
    rw [List.length_take]
    omega
  have hroom : s.dnsPos.toNat + (bs.take (s.dnsLen.toNat - s.dnsPos.toNat)).length ≤ s.dnsLen.toNat := by omega
  have hend : (emit (bs.take (s.dnsLen.toNat - s.dnsPos.toNat)) s).dnsPos = s.dnsLen := by
    apply BitVec.eq_of_toNat_eq
    rw [dnsPos_emit hroom]
    omega
  obtain ⟨b, rest, hrest⟩ := List.exists_cons_of_length_pos
    (l := bs.drop (s.dnsLen.toNat - s.dnsPos.toNat)) (by rw [List.length_drop]; omega)
  conv_lhs => rw [← List.take_append_drop (s.dnsLen.toNat - s.dnsPos.toNat) bs]
  rw [dnsWrAll_append, dnsWrAll_of_room hroom, bind_ok, hrest, dnsWrAll, dnsWr8_of_le (by rw [hend, emit_dnsLen]),
    hend, bind_raise]

/-- Bytes are written without a fault only where there is room for them. -/
theorem dnsWrAll_eq_ok {bs : List Byte} {s t : State} (hne : bs ≠ []) (h : dnsWrAll bs s = .ok () t) :
    s.dnsPos.toNat + bs.length ≤ s.dnsLen.toNat ∧ t = emit bs s := by
  by_cases hroom : s.dnsPos.toNat + bs.length ≤ s.dnsLen.toNat
  · rw [dnsWrAll_of_room hroom] at h
    cases h
    exact ⟨hroom, rfl⟩
  by_cases hpos : s.dnsPos.toNat ≤ s.dnsLen.toNat
  · rw [dnsWrAll_of_no_room hpos (by omega)] at h
    cases h
  · obtain ⟨b, rest, rfl⟩ := List.exists_cons_of_ne_nil hne
    rw [dnsWrAll, dnsWr8_of_le (by omega)] at h
    cases h

theorem holdsAt_emit (bs : List Byte) (s : State) : HoldsAt (emit bs s) s.dnsPos.toNat bs := by
  refine List.ext_getElem (memRead_length _ _ _) fun k _ hk => ?_
  rw [memRead_getElem, emit_dnsBase, bufRead_emit, dnsAddr, if_pos (by omega), Nat.add_sub_cancel_left,
    List.getD_eq_getElem _ _ hk]

theorem bufRead_emit_other {bs : List Byte} {s : State} {a : Nat}
    (h : a < s.dnsBase.toNat + s.dnsPos.toNat ∨ s.dnsBase.toNat + s.dnsPos.toNat + bs.length ≤ a) :
    bufRead (emit bs s) a = bufRead s a := bufRead_memWrite_other s h

/-! ### Bytes appended to `NAME` -/

/-- `s` with the bytes `cs` appended to the name in `NAME`. -/
def nameStore : List Byte → State → State
  | [], s => s
  | c :: cs, s => nameStore cs ((nameWrite s s.nameLen.toNat c).setNameLen (s.nameLen + 1#32))

theorem nameStore_append (a b : List Byte) (s : State) : nameStore (a ++ b) s = nameStore b (nameStore a s) := by
  induction a generalizing s with
  | nil => rfl
  | cons c a ih => exact ih _

/-- Appending to the name changes `NAME` and `NAME_LEN` only. -/
theorem nameStore_eq (cs : List Byte) (s : State) :
    nameStore cs s =
      { s with nameLen := BitVec.ofNat 32 (s.nameLen.toNat + cs.length), name := (nameStore cs s).name } := by
  induction cs generalizing s with
  | nil => simp [nameStore]
  | cons c cs ih =>
    have hlen : BitVec.ofNat 32 ((s.nameLen + 1#32).toNat + cs.length) =
        BitVec.ofNat 32 (s.nameLen.toNat + (cs.length + 1)) := by
      apply BitVec.eq_of_toNat_eq
      simp only [BitVec.toNat_add, BitVec.toNat_ofNat]
      omega
    rw [nameStore, ih, setNameLen_nameLen, hlen]
    rfl

section

variable (cs : List Byte) (s : State)

@[simp] theorem nameStore_dnsPos : (nameStore cs s).dnsPos = s.dnsPos := by rw [nameStore_eq]
@[simp] theorem nameStore_dnsBase : (nameStore cs s).dnsBase = s.dnsBase := by rw [nameStore_eq]
@[simp] theorem nameStore_dnsLen : (nameStore cs s).dnsLen = s.dnsLen := by rw [nameStore_eq]
@[simp] theorem nameStore_dreg : (nameStore cs s).dreg = s.dreg := by rw [nameStore_eq]
@[simp] theorem nameStore_params : (nameStore cs s).params = s.params := by rw [nameStore_eq]
@[simp] theorem bufRead_nameStore (a : Nat) : bufRead (nameStore cs s) a = bufRead s a :=
  bufRead_congr (by rw [nameStore_eq]) (by rw [nameStore_eq]) a

end

/-- Within 32 bits the length does not wrap. -/
theorem nameLen_nameStore {cs : List Byte} {s : State} (h : s.nameLen.toNat + cs.length < 2 ^ 32) :
    (nameStore cs s).nameLen.toNat = s.nameLen.toNat + cs.length := by
  rw [nameStore_eq, BitVec.toNat_ofNat, Nat.mod_eq_of_lt h]

theorem nameStore_advance (cs : List Byte) (n : Nat) (s : State) :
    nameStore cs (advance n s) = advance n (nameStore cs s) := by
  induction cs generalizing s with
  | nil => rfl
  | cons c cs ih => exact ih ((nameWrite s s.nameLen.toNat c).setNameLen (s.nameLen + 1#32))

/-- What a byte of `NAME` reads as after an append: the appended byte inside the range, the old one outside. -/
theorem nameRead_nameStore {cs : List Byte} {s : State} (h : s.nameLen.toNat + cs.length < 2 ^ 32) (i : Nat) :
    nameRead (nameStore cs s) i =
      if s.nameLen.toNat ≤ i ∧ i < s.nameLen.toNat + cs.length then cs.getD (i - s.nameLen.toNat) 0#8
      else nameRead s i := by
  induction cs generalizing s with
  | nil =>
    rw [if_neg (by rw [List.length_nil]; omega)]
    rfl
  | cons c cs ih =>
    rw [List.length_cons] at h ⊢
    have hlen : (s.nameLen + 1#32).toNat = s.nameLen.toNat + 1 := by
      simp only [BitVec.toNat_add, BitVec.toNat_ofNat]
      omega
    have hwrite : nameRead ((nameWrite s s.nameLen.toNat c).setNameLen (s.nameLen + 1#32)) i =
        if i = s.nameLen.toNat then c else nameRead s i := nameRead_nameWrite s _ i c
    rw [nameStore, ih (by rw [setNameLen_nameLen, hlen]; omega), setNameLen_nameLen, hlen, hwrite]
    rcases Nat.lt_trichotomy i s.nameLen.toNat with hi | hi | hi
    · rw [if_neg (by omega), if_neg (by omega), if_neg (by omega)]
    · rw [if_neg (by omega), if_pos hi, if_pos (by omega), hi, Nat.sub_self, List.getD_cons_zero]
    · obtain ⟨k, rfl⟩ : ∃ k, i = s.nameLen.toNat + 1 + k := ⟨i - (s.nameLen.toNat + 1), by omega⟩
      rw [show s.nameLen.toNat + 1 + k - s.nameLen.toNat = k + 1 by omega, List.getD_cons_succ, Nat.add_sub_cancel_left]
      by_cases hk : k < cs.length
      · rw [if_pos (by omega), if_pos (by omega)]
      · rw [if_neg (by omega), if_neg (by omega), if_neg (by omega)]

theorem currentName_nameStore {cs : List Byte} {s : State} (h : s.nameLen.toNat + cs.length < 2 ^ 32) :
    currentName (nameStore cs s) = currentName s ++ cs := by
  rw [currentName, nameLen_nameStore h, nameSlice_add]
  congr 1
  · refine nameSlice_congr fun k hk => ?_
    rw [nameRead_nameStore h, if_neg (by omega)]
  · refine List.ext_getElem (nameSlice_length _ _ _) fun k _ hk => ?_
    rw [nameSlice_getElem, nameRead_nameStore h, if_pos (by omega), List.getD_eq_getElem _ _ (by omega)]
    congr 1
    omega

theorem nameAppend_of_lt {s : State} (h : s.nameLen.toNat < s.params.nameMax) (c : Byte) :
    nameAppend c s = .ok () (nameStore [c] s) := by
  rcases nameAppend_cases c s with ⟨e, _⟩ | ⟨_, hle⟩
  · exact e
  · omega

theorem nameAppend_of_le {s : State} (h : s.params.nameMax ≤ s.nameLen.toNat) (c : Byte) :
    nameAppend c s = .raise .dnsNameOvf s.dnsPos s := by
  rcases nameAppend_cases c s with ⟨_, hlt⟩ | ⟨e, _⟩
  · omega
  · exact e

section

variable {s : State} (hmax : s.params.nameMax < 2 ^ 32)

include hmax

theorem nameAppendAll_of_room {cs : List Byte} (h : s.nameLen.toNat + cs.length ≤ s.params.nameMax) :
    nameAppendAll cs s = .ok () (nameStore cs s) := by
  induction cs generalizing s with
  | nil => rfl
  | cons c cs ih =>
    rw [List.length_cons] at h
    have hlen : (nameStore [c] s).nameLen.toNat = s.nameLen.toNat + 1 := nameLen_nameStore (by simp; omega)
    rw [nameAppendAll, nameAppend_of_lt (by omega), bind_ok,
      ih (by rwa [nameStore_params]) (by rw [hlen, nameStore_params]; omega)]
    rfl

end

end Sys2Proof.Machine

/-! PROOF. Names in the message (43_dns_name.md R190 to R192, R195): the bytes of a pointer, the text of a name and of the
rest of it, the suffixes of a name with their positions, and an entry put in a registry. -/

namespace Sys2Proof.Machine

open Sys2Proof Sys2Proof.Claims

/-! ### Pointers -/

@[simp] theorem pointerBytes_length (off : Word) : (pointerBytes off).length = 2 := rfl

theorem pointerOffset_toNat (p0 p1 : Byte) : (pointerOffset p0 p1).toNat = p0.toNat % 64 * 256 + p1.toNat := by
  have := p1.isLt
  rw [pointerOffset, BitVec.toNat_setWidth, append_toNat, BitVec.extractLsb'_toNat]
  omega

theorem isPointerByte_iff (b : Byte) : isPointerByte b = true ↔ 0xC0 ≤ b.toNat := by
  revert b
  decide

theorem pointerByte_toNat (x : BitVec 6) : (0xC0#8 ||| x.setWidth 8).toNat = 0xC0 + x.toNat := by
  revert x
  decide

theorem pointerBytes_first_toNat {off : Word} (h : off.toNat ≤ 0x3FFF) :
    (0xC0#8 ||| (off.extractLsb' 8 6).setWidth 8).toNat = 0xC0 + off.toNat / 256 := by
  rw [pointerByte_toNat, BitVec.extractLsb'_toNat, Nat.shiftRight_eq_div_pow]
  omega

theorem pointerBytes_second_toNat (off : Word) : (off.extractLsb' 0 8).toNat = off.toNat % 256 := by
  rw [BitVec.extractLsb'_toNat, Nat.shiftRight_zero]

/-- The two bytes that the encoder writes are read back as the offset (R192). -/
theorem pointerOffset_pointerBytes {off : Word} (h : off.toNat ≤ 0x3FFF) :
    pointerOffset (0xC0#8 ||| (off.extractLsb' 8 6).setWidth 8) (off.extractLsb' 0 8) = off := by
  apply BitVec.eq_of_toNat_eq
  rw [pointerOffset_toNat, pointerBytes_first_toNat h, pointerBytes_second_toNat]
  omega

/-! ### The text of a name -/

/-- The rest of a name after one of its labels: the labels `ls` and then `tail`, each after a separator. -/
def dotted (tail : List Byte) : List (List Byte) → List Byte
  | [] => if tail = [] then [] else dot :: tail
  | l :: ls => dot :: (l ++ dotted tail ls)

theorem nameText_nil (tail : List Byte) : nameText [] tail = tail := by
  by_cases h : tail = [] <;> simp [nameText, joinLabels, h]

theorem nameText_cons (l : List Byte) (ls : List (List Byte)) (tail : List Byte) :
    nameText (l :: ls) tail = l ++ dotted tail ls := by
  induction ls generalizing l with
  | nil => by_cases h : tail = [] <;> simp [nameText, joinLabels, dotted, h]
  | cons l' ls ih =>
    rw [dotted, ← ih l']
    by_cases h : tail = [] <;> simp [nameText, h, joinLabels]

theorem dotted_cons (tail l : List Byte) (ls : List (List Byte)) :
    dotted tail (l :: ls) = dot :: nameText (l :: ls) tail := by
  rw [nameText_cons, dotted]

theorem dotted_nil_of_ne {tail : List Byte} (h : tail ≠ []) : dotted tail [] = dot :: nameText [] tail := by
  rw [nameText_nil, dotted, if_neg h]

theorem nameText_ne_nil {l : List Byte} (h : 1 ≤ l.length) (ls : List (List Byte)) (tail : List Byte) :
    nameText (l :: ls) tail ≠ [] := by
  rw [nameText_cons]
  exact List.append_ne_nil_of_left_ne_nil (List.ne_nil_of_length_pos h) _

theorem eq_nil_of_nameText_eq_nil {ls : List (List Byte)} {tail : List Byte} (hls : ∀ l ∈ ls, 1 ≤ l.length)
    (h : nameText ls tail = []) : ls = [] ∧ tail = [] := by
  cases ls with
  | nil => exact ⟨rfl, (nameText_nil tail).symm.trans h⟩
  | cons l ls => exact absurd h (nameText_ne_nil (hls l List.mem_cons_self) ls tail)

/-- What follows the labels read so far is nothing, or a separator and a name. -/
theorem dotted_cases (tail : List Byte) (ls : List (List Byte)) :
    (ls = [] ∧ tail = [] ∧ dotted tail ls = []) ∨
      ((ls ≠ [] ∨ tail ≠ []) ∧ dotted tail ls = dot :: nameText ls tail) := by
  cases ls with
  | nil =>
    by_cases h : tail = []
    · exact .inl ⟨rfl, h, by rw [dotted, if_pos h]⟩
    · exact .inr ⟨.inr h, dotted_nil_of_ne h⟩
  | cons l ls => exact .inr ⟨.inl (List.cons_ne_nil _ _), dotted_cons tail l ls⟩

theorem nameText_length_le_dotted (tail : List Byte) (ls : List (List Byte)) :
    (nameText ls tail).length ≤ (dotted tail ls).length := by
  rcases dotted_cases tail ls with ⟨rfl, rfl, e⟩ | ⟨_, e⟩ <;> rw [e]
  · exact Nat.le_refl 0
  · exact Nat.le_succ _

theorem nameText_length_lt_cons {l : List Byte} (h : 1 ≤ l.length) (ls : List (List Byte)) (tail : List Byte) :
    (nameText ls tail).length < (nameText (l :: ls) tail).length := by
  have := nameText_length_le_dotted tail ls
  rw [nameText_cons, List.length_append]
  omega

theorem tail_length_le_nameText (tail : List Byte) (ls : List (List Byte)) :
    tail.length ≤ (nameText ls tail).length := by
  induction ls with
  | nil => rw [nameText_nil]
  | cons l ls ih =>
    have := nameText_length_le_dotted tail ls
    rw [nameText_cons, List.length_append]
    omega

@[simp] theorem labelItem_length (l : List Byte) : (labelItem l).length = l.length + 1 := rfl

@[simp] theorem labelItems_nil : labelItems [] = [] := rfl

theorem labelItems_cons (l : List Byte) (ls : List (List Byte)) : labelItems (l :: ls) = labelItem l ++ labelItems ls := rfl

theorem wireName_cons (l : List Byte) (ls : List (List Byte)) (e : NameEnd) :
    wireName (l :: ls) e = labelItem l ++ wireName ls e := by
  rw [wireName, labelItems_cons, List.append_assoc, wireName]

theorem wireName_nil (e : NameEnd) : wireName [] e = endItem e := rfl

theorem endItem_length_pos (e : NameEnd) : 0 < (endItem e).length := by
  cases e <;> exact Nat.succ_pos _

theorem wireName_length (ls : List (List Byte)) (e : NameEnd) :
    (wireName ls e).length = (labelItems ls).length + (endItem e).length := List.length_append

/-! ### The suffixes of a name -/

theorem suffixesAt_cons (pos : Nat) (tail l : List Byte) (ls : List (List Byte)) :
    suffixesAt pos tail (l :: ls) = (pos, nameText (l :: ls) tail) :: suffixesAt (pos + (labelItem l).length) tail ls := by
  rw [suffixesAt, labelItem_length, Nat.add_right_comm, Nat.add_assoc]

@[simp] theorem suffixesAt_length (pos : Nat) (tail : List Byte) (ls : List (List Byte)) :
    (suffixesAt pos tail ls).length = ls.length := by
  induction ls generalizing pos with
  | nil => rfl
  | cons l ls ih => rw [suffixesAt_cons, List.length_cons, ih, List.length_cons]

/-- The suffixes begin at or after the position where the labels stand, and before their end. -/
theorem position_of_mem_suffixesAt {pos : Nat} {tail : List Byte} {ls : List (List Byte)} {e : Nat × List Byte}
    (h : e ∈ suffixesAt pos tail ls) : pos ≤ e.1 ∧ e.1 < pos + (labelItems ls).length := by
  induction ls generalizing pos with
  | nil => exact absurd h List.not_mem_nil
  | cons l ls ih =>
    rw [labelItems_cons, List.length_append, labelItem_length]
    rw [suffixesAt_cons] at h
    rcases List.mem_cons.mp h with rfl | h
    · exact ⟨Nat.le_refl pos, by omega⟩
    · have := ih h
      rw [labelItem_length] at this
      omega

/-- No suffix is longer than the whole name, and each has at least a label before the rest `tail`. -/
theorem length_of_mem_suffixesAt {pos : Nat} {tail : List Byte} {ls : List (List Byte)} {e : Nat × List Byte}
    (hls : ∀ l ∈ ls, 1 ≤ l.length) (h : e ∈ suffixesAt pos tail ls) :
    e.2.length ≤ (nameText ls tail).length ∧ tail.length < e.2.length := by
  induction ls generalizing pos with
  | nil => exact absurd h List.not_mem_nil
  | cons l ls ih =>
    have hlt := nameText_length_lt_cons (hls l List.mem_cons_self) ls tail
    have hle := tail_length_le_nameText tail ls
    rw [suffixesAt_cons] at h
    rcases List.mem_cons.mp h with rfl | h
    · exact ⟨Nat.le_refl _, hle.trans_lt hlt⟩
    · obtain ⟨hup, hlow⟩ := ih (fun l hl => hls l (List.mem_cons_of_mem _ hl)) h
      exact ⟨by omega, hlow⟩

theorem suffixAt_cons (off : Word) (e : Nat × List Byte) (sfx : List (Nat × List Byte)) :
    suffixAt off (e :: sfx) = if e.1 = off.toNat then some e.2 else suffixAt off sfx := by
  by_cases h : e.1 = off.toNat <;> simp [suffixAt, h]

theorem suffixAt_eq_none {off : Word} {sfx : List (Nat × List Byte)} (h : ∀ e ∈ sfx, e.1 ≠ off.toNat) :
    suffixAt off sfx = none := by
  simpa [suffixAt] using h

theorem positionOf_cons (nm : List Byte) (e : Nat × List Byte) (sfx : List (Nat × List Byte)) :
    positionOf nm (e :: sfx) = if e.2 = nm then some (BitVec.ofNat 32 e.1) else positionOf nm sfx := by
  by_cases h : e.2 = nm <;> simp [positionOf, h]

theorem positionOf_eq_none {nm : List Byte} {sfx : List (Nat × List Byte)} (h : ∀ e ∈ sfx, e.2 ≠ nm) :
    positionOf nm sfx = none := by
  simpa [positionOf] using h

/-- A suffix stands at its own position: no other suffix begins there. -/
theorem suffixAt_of_positionOf {pos : Nat} {tail nm : List Byte} {ls : List (List Byte)} {off : Word}
    (hfit : pos + (labelItems ls).length ≤ 2 ^ 32) (h : positionOf nm (suffixesAt pos tail ls) = some off) :
    suffixAt off (suffixesAt pos tail ls) = some nm ∧ pos ≤ off.toNat ∧ off.toNat < pos + (labelItems ls).length := by
  induction ls generalizing pos with
  | nil => cases h
  | cons l ls ih =>
    rw [labelItems_cons, List.length_append, labelItem_length] at hfit ⊢
    rw [suffixesAt_cons, positionOf_cons] at h
    rw [suffixesAt_cons, suffixAt_cons]
    split at h
    · next hnm =>
      have hoff : off.toNat = pos := by
        rw [← Option.some.inj h, BitVec.toNat_ofNat]
        omega
      rw [if_pos hoff.symm]
      exact ⟨congrArg some hnm, by omega, by omega⟩
    · rw [labelItem_length] at h ⊢
      obtain ⟨hat, hlow, hup⟩ := ih (by omega) h
      rw [if_neg (by omega)]
      exact ⟨hat, by omega, by omega⟩

/-! ### An entry put in a registry (R195) -/

section

variable {κ β : Type} [DecidableEq κ] {lt : κ → κ → Bool} {cap : Option Nat} {m n : List (κ × β)} {k : κ} {v : β}

theorem regPut_eq_none_iff : regPut cap lt m k v = none ↔ mapGet k m = none ∧ cap = some m.length := by
  rcases regPut_cases cap lt m k v with ⟨e, h⟩ | ⟨e, hnew, hfull⟩ <;> rw [e]
  · refine iff_of_false nofun fun ⟨hnew, hfull⟩ => ?_
    rcases h with h | h
    · simp [hnew] at h
    · exact h hfull
  · exact iff_of_true rfl ⟨hnew, hfull⟩

theorem regPut_length (o : KeyOrder lt) (hs : mapSorted lt m) (h : regPut cap lt m k v = some n) :
    n.length = if (mapGet k m).isSome then m.length else m.length + 1 := by
  obtain rfl := regPut_some h
  split
  · next hk => exact mapPut_length_old o hs hk
  · next hk => exact mapPut_length_new lt v (by simpa using hk)

theorem insertionLaw_of_keyOrder (o : KeyOrder lt) (hs : mapSorted lt m) : insertionLaw cap lt m k v := by
  refine ⟨regPut_eq_none_iff, fun n h => ⟨Safety.regPut_sorted o hs h, fun j => ?_, regPut_length o hs h⟩⟩
  rw [regPut_some h, mapGet_mapPut]

end

end Sys2Proof.Machine

namespace Sys2Proof.Claims

open Sys2Proof Sys2Proof.Machine

/-- Settles O45: both orders of keys are total orders, and the law holds for each such order. -/
theorem registryInsertion : Obligations.RegistryInsertion :=
  ⟨fun _ _ _ _ hs => insertionLaw_of_keyOrder wordLt_order hs, fun _ _ _ _ hs => insertionLaw_of_keyOrder nameLt_order hs⟩

/-- Settles O50: the two bytes are the two digits of the offset to base 256, the first with 0xC0 added. -/
theorem pointerBytesRoundTrip : Obligations.PointerBytesRoundTrip := by
  refine ⟨fun off h => ⟨_, _, rfl, ?_, pointerBytes_first_toNat h, pointerBytes_second_toNat off,
    pointerOffset_pointerBytes h⟩, isPointerByte_iff, pointerOffset_toNat⟩
  rw [isPointerByte_iff, pointerBytes_first_toNat h]
  omega

/-- Settles O44: emptying an empty registry changes nothing, and the two counts are those of the empty lists. -/
theorem dnsClrEmptiesRegistries : Obligations.DnsClrEmptiesRegistries :=
  ⟨rfl, fun _ => rfl, fun _ => ⟨_, rfl, rfl, rfl, viewWord_of_lt (n := 0) (by decide), viewWord_of_lt (n := 0) (by decide)⟩⟩

end Sys2Proof.Claims

/-! PROOF. `DNS.DEC` on a name that lies in the message (43_dns_name.md R191, R197): what each item of the loop does, the
name that the whole loop leaves in `NAME`, and the suffixes that are registered after it. -/

namespace Sys2Proof.Machine

open Sys2Proof Sys2Proof.Claims

/-! ### The pieces of an item -/

theorem bind_of_ok {α β : Type} {r : Res α} {a : α} {s : State} (h : r = .ok a s) (f : α → State → Res β) :
    r.bind f = f a s := by
  rw [h, bind_ok]

theorem bind_of_raise {α β : Type} {r : Res α} {c : ErrCode} {pos : Word} {s : State} (h : r = .raise c pos s)
    (f : α → State → Res β) : r.bind f = .raise c pos s := by
  rw [h, bind_raise]

/-- The separator before what is appended to a name of `n` bytes. -/
def separator (n : Nat) : List Byte := if n = 0 then [] else [dot]

theorem nameSeparator_of_room {s : State}
    (h : s.nameLen.toNat + (separator s.nameLen.toNat).length ≤ s.params.nameMax) :
    nameSeparator s = .ok () (nameStore (separator s.nameLen.toNat) s) := by
  unfold nameSeparator separator at *
  by_cases hzero : s.nameLen = 0#32
  · rw [if_pos hzero, if_pos (by rw [hzero]; rfl)]
    rfl
  · have hne : s.nameLen.toNat ≠ 0 := fun e => hzero (BitVec.eq_of_toNat_eq e)
    rw [if_neg hne, List.length_singleton] at h
    rw [if_neg hzero, if_neg hne, nameAppend_of_lt (by omega)]

section

variable {s : State} (hmax : s.params.nameMax < 2 ^ 32)

include hmax

/-- A label that lies in the message and fits `NAME` is copied. -/
theorem decLabel_of_room {l : List Byte} (hread : HoldsAt s s.dnsPos.toNat l)
    (hbelow : s.dnsPos.toNat + l.length ≤ s.dnsLen.toNat) (hfits : s.nameLen.toNat + l.length ≤ s.params.nameMax) :
    decLabel l.length s = .ok () (advance l.length (nameStore l s)) := by
  induction l generalizing s with
  | nil => rw [List.length_nil, nameStore, advance_zero, decLabel]
  | cons c l ih =>
    rw [List.length_cons] at hbelow hfits
    obtain ⟨hc, hl⟩ := (holdsAt_cons s _ c l).mp hread
    have hpos : (advance 1 s).dnsPos.toNat = s.dnsPos.toNat + 1 := dnsPos_advance (by omega)
    have hlen : (nameStore [c] (advance 1 s)).nameLen.toNat = s.nameLen.toNat + 1 :=
      nameLen_nameStore (by rw [advance_nameLen, List.length_singleton]; omega)
    have hrest := ih (s := nameStore [c] (advance 1 s)) (by rwa [nameStore_params])
      ((by rw [nameStore_dnsPos, hpos]; exact hl : HoldsAt s _ l).congr (by simp) (by simp))
      (by rw [nameStore_dnsPos, hpos, nameStore_dnsLen, advance_dnsLen]; omega)
      (by rw [hlen, nameStore_params, advance_params]; omega)
    rw [List.length_cons, decLabel, dnsRd8_of_lt (by omega), bind_ok, hc,
      nameAppend_of_lt (by rw [advance_nameLen, advance_params]; omega), bind_ok, hrest, ← nameStore_append,
      nameStore_advance, advance_advance, Nat.add_comm 1, List.singleton_append]

/-- A pointer to a registered name appends that name. -/
theorem decPointer_of_registered {p0 : Byte} {nm : List Byte} (hlt : s.dnsPos.toNat < s.dnsLen.toNat)
    (hreg : mapGet (pointerOffset p0 (messageByte s s.dnsPos.toNat)) s.dreg = some nm)
    (hfits : s.nameLen.toNat + (separator s.nameLen.toNat ++ nm).length ≤ s.params.nameMax) :
    decPointer p0 s = .ok () (advance 1 (nameStore (separator s.nameLen.toNat ++ nm) s)) := by
  rw [List.length_append] at hfits
  have hlen : (nameStore (separator s.nameLen.toNat) (advance 1 s)).nameLen.toNat =
      s.nameLen.toNat + (separator s.nameLen.toNat).length :=
    nameLen_nameStore (by rw [advance_nameLen]; omega)
  have hsep : nameSeparator (advance 1 s) = .ok () (nameStore (separator s.nameLen.toNat) (advance 1 s)) :=
    nameSeparator_of_room (s := advance 1 s) (by rw [advance_nameLen, advance_params]; omega)
  have hall : nameAppendAll nm (nameStore (separator s.nameLen.toNat) (advance 1 s)) =
      .ok () (nameStore nm (nameStore (separator s.nameLen.toNat) (advance 1 s))) :=
    nameAppendAll_of_room (by rwa [nameStore_params]) (by rw [hlen, nameStore_params, advance_params]; omega)
  rw [decPointer, dnsRd8_of_lt hlt, bind_ok, advance_dreg, hreg]
  simp only [hsep, bind_ok, hall]
  rw [← nameStore_append, nameStore_advance]

end

theorem decPointer_of_no_byte {s : State} (h : s.dnsLen.toNat ≤ s.dnsPos.toNat) (p0 : Byte) :
    decPointer p0 s = .raise .dnsUnderrun s.dnsPos s := by
  rw [decPointer, dnsRd8_of_le h, bind_raise]

theorem decPointer_of_unresolved {s : State} {p0 : Byte} (hlt : s.dnsPos.toNat < s.dnsLen.toNat)
    (hreg : mapGet (pointerOffset p0 (messageByte s s.dnsPos.toNat)) s.dreg = none) :
    decPointer p0 s = .raise .dnsUnresolved (advance 1 s).dnsPos (advance 1 s) := by
  rw [decPointer, dnsRd8_of_lt hlt, bind_ok, advance_dreg, hreg]

/-! ### One item of the loop -/

section

variable {s : State} {fuel : Nat} {k : List (Word × Nat)} (hlt : s.dnsPos.toNat < s.dnsLen.toNat)

include hlt

theorem decItems_terminator (hbyte : messageByte s s.dnsPos.toNat = 0#8) :
    decItems (fuel + 1) k s = .ok k (advance 1 s) := by
  rw [decItems, dnsRd8_of_lt hlt, bind_ok, if_pos hbyte]

theorem decItems_pointer (hbyte : 0xC0 ≤ (messageByte s s.dnsPos.toNat).toNat) :
    decItems (fuel + 1) k s =
      (decPointer (messageByte s s.dnsPos.toNat) (advance 1 s)).bind fun _ t => .ok k t := by
  have hne : messageByte s s.dnsPos.toNat ≠ 0#8 := by
    intro h
    rw [h] at hbyte
    exact absurd hbyte (by decide)
  rw [decItems, dnsRd8_of_lt hlt, bind_ok, if_neg hne, if_pos ((isPointerByte_iff _).mpr hbyte)]

/-- A length byte that begins a label: neither 0 nor the first byte of a pointer. -/
theorem decItems_length_byte (hpos : 1 ≤ (messageByte s s.dnsPos.toNat).toNat)
    (hle : (messageByte s s.dnsPos.toNat).toNat ≤ 0xBF) :
    decItems (fuel + 1) k s =
      if s.dnsLen.toNat < s.dnsPos.toNat + 1 + (messageByte s s.dnsPos.toNat).toNat then
        .raise .dnsUnderrun (advance 1 s).dnsPos (advance 1 s)
      else
        (nameSeparator (advance 1 s)).bind fun _ t =>
          (decLabel (messageByte s s.dnsPos.toNat).toNat t).bind fun _ u =>
            decItems fuel ((s.dnsPos, t.nameLen.toNat) :: k) u := by
  have hne : messageByte s s.dnsPos.toNat ≠ 0#8 := by
    intro h
    rw [h] at hpos
    exact absurd hpos (by decide)
  have hnp : ¬ isPointerByte (messageByte s s.dnsPos.toNat) = true := by
    rw [isPointerByte_iff]
    omega
  have hstart : (advance 1 s).dnsPos - 1#32 = s.dnsPos := by
    rw [advance_dnsPos, ← dnsPos_add, BitVec.add_sub_cancel]
  rw [decItems, dnsRd8_of_lt hlt, bind_ok, if_neg hne, if_neg hnp, dnsPos_advance (by omega), hstart, advance_dnsLen]

end

/-- `s` with a label read: its text appended to the name, `DNS_POS` after it. -/
def readLabel (l : List Byte) (s : State) : State :=
  advance (labelItem l).length (nameStore (separator s.nameLen.toNat ++ l) s)

theorem lengthByte_toNat {l : List Byte} (h : l.length ≤ 191) : (BitVec.ofNat 8 l.length).toNat = l.length := by
  rw [BitVec.toNat_ofNat]
  omega

theorem decItems_label {s : State} {l : List Byte} (hmax : s.params.nameMax < 2 ^ 32)
    (hl : 1 ≤ l.length ∧ l.length ≤ 191) (hread : HoldsAt s s.dnsPos.toNat (labelItem l))
    (hbelow : s.dnsPos.toNat + (labelItem l).length ≤ s.dnsLen.toNat)
    (hfits : s.nameLen.toNat + (separator s.nameLen.toNat ++ l).length ≤ s.params.nameMax) (fuel : Nat)
    (k : List (Word × Nat)) :
    decItems (fuel + 1) k s =
      decItems fuel ((s.dnsPos, s.nameLen.toNat + (separator s.nameLen.toNat).length) :: k) (readLabel l s) := by
  rw [labelItem_length] at hbelow
  rw [List.length_append] at hfits
  obtain ⟨hbyte, htext⟩ := (holdsAt_cons s _ _ l).mp hread
  have hn : (messageByte s s.dnsPos.toNat).toNat = l.length := by rw [hbyte, lengthByte_toNat hl.2]
  have hpos : (advance 1 s).dnsPos.toNat = s.dnsPos.toNat + 1 := dnsPos_advance (by omega)
  have hsep : nameSeparator (advance 1 s) = .ok () (nameStore (separator s.nameLen.toNat) (advance 1 s)) :=
    nameSeparator_of_room (s := advance 1 s) (by rw [advance_nameLen, advance_params]; omega)
  have hlen : (nameStore (separator s.nameLen.toNat) (advance 1 s)).nameLen.toNat =
      s.nameLen.toNat + (separator s.nameLen.toNat).length :=
    nameLen_nameStore (by rw [advance_nameLen]; omega)
  have hlabel := decLabel_of_room (s := nameStore (separator s.nameLen.toNat) (advance 1 s)) (l := l)
    (by rwa [nameStore_params]) ((by rw [nameStore_dnsPos, hpos]; exact htext : HoldsAt s _ l).congr (by simp) (by simp))
    (by rw [nameStore_dnsPos, hpos, nameStore_dnsLen, advance_dnsLen]; omega)
    (by rw [hlen, nameStore_params, advance_params]; omega)
  rw [decItems_length_byte (by omega) (by omega) (by omega), if_neg (by omega), hsep, bind_ok, hn, hlabel, bind_ok, hlen,
    ← nameStore_append, nameStore_advance, advance_advance, Nat.add_comm 1, readLabel, labelItem_length]

/-! ### The loop on a whole name -/

/-- What a name of `n` bytes gains from the labels `ls` and then the registered name `tail`. -/
def appendedText (n : Nat) (ls : List (List Byte)) (tail : List Byte) : List Byte :=
  if n = 0 then nameText ls tail else dotted tail ls

theorem appendedText_cons (n : Nat) (l : List Byte) (ls : List (List Byte)) (tail : List Byte) :
    appendedText n (l :: ls) tail = separator n ++ nameText (l :: ls) tail := by
  by_cases h : n = 0
  · rw [appendedText, separator, if_pos h, if_pos h, List.nil_append]
  · rw [appendedText, separator, if_neg h, if_neg h, dotted_cons, List.singleton_append]

theorem appendedText_cons_append {l : List Byte} (hl : 1 ≤ l.length) (n : Nat) (ls : List (List Byte)) (tail : List Byte) :
    appendedText n (l :: ls) tail =
      (separator n ++ l) ++ appendedText (n + (separator n ++ l).length) ls tail := by
  rw [appendedText_cons, nameText_cons, appendedText, if_neg (by rw [List.length_append]; omega), List.append_assoc]

theorem appendedText_nil {n : Nat} {tail : List Byte} (h : tail = [] → n = 0) :
    appendedText n [] tail = separator n ++ tail := by
  by_cases hn : n = 0
  · rw [appendedText, separator, if_pos hn, if_pos hn, nameText_nil, List.nil_append]
  · rw [appendedText, separator, if_neg hn, if_neg hn, dotted_nil_of_ne fun e => hn (h e), nameText_nil,
      List.singleton_append]

/-- How a name ends: a terminator after it whole, or a pointer to its rest, registered in `m` (R191, R197). -/
def EndsIn (m : List (Word × List Byte)) (tail : List Byte) : NameEnd → Prop
  | .terminator => tail = []
  | .pointer off => off.toNat ≤ 0x3FFF ∧ mapGet off m = some tail

/-- At `DNS_POS` the message of `s` holds the labels `ls` and the end `e` that stands for `tail`, below `DNS_LEN`; their
text fits `NAME` after what stands there already. -/
structure NameAt (s : State) (ls : List (List Byte)) (e : NameEnd) (tail : List Byte) : Prop where
  labels : ∀ l ∈ ls, 1 ≤ l.length ∧ l.length ≤ 191
  ending : EndsIn s.dreg tail e
  tail_ne : tail = [] → e = .terminator ∨ ls = [] ∧ s.nameLen.toNat = 0
  holds : HoldsAt s s.dnsPos.toNat (wireName ls e)
  below : s.dnsPos.toNat + (wireName ls e).length ≤ s.dnsLen.toNat
  fits : s.nameLen.toNat + (appendedText s.nameLen.toNat ls tail).length ≤ s.params.nameMax
  nameMax_lt : s.params.nameMax < 2 ^ 32

/-- The pairs that await registration after the labels `ls`, read from the position `pos` on into a name of `n` bytes. -/
def pendingAt (pos n : Nat) : List (List Byte) → List (Word × Nat)
  | [] => []
  | l :: ls =>
    (BitVec.ofNat 32 pos, n + (separator n).length) ::
      pendingAt (pos + (labelItem l).length) (n + (separator n ++ l).length) ls

theorem NameAt.label_fits {s : State} {l : List Byte} {ls : List (List Byte)} {e : NameEnd} {tail : List Byte}
    (h : NameAt s (l :: ls) e tail) :
    s.nameLen.toNat + (separator s.nameLen.toNat ++ l).length ≤ s.params.nameMax := by
  have hfits := h.fits
  rw [appendedText_cons_append (h.labels l List.mem_cons_self).1, List.length_append] at hfits
  omega

section

variable {s : State} {l : List Byte} {ls : List (List Byte)} {e : NameEnd} {tail : List Byte}
  (h : NameAt s (l :: ls) e tail)

include h

theorem NameAt.label_below : s.dnsPos.toNat + (labelItem l).length ≤ s.dnsLen.toNat := by
  have hbelow := h.below
  rw [wireName_cons, List.length_append] at hbelow
  omega

theorem NameAt.dnsPos_readLabel : (readLabel l s).dnsPos.toNat = s.dnsPos.toNat + (labelItem l).length := by
  rw [readLabel, dnsPos_advance (by rw [nameStore_dnsPos, nameStore_dnsLen]; exact h.label_below), nameStore_dnsPos]

theorem NameAt.nameLen_readLabel :
    (readLabel l s).nameLen.toNat = s.nameLen.toNat + (separator s.nameLen.toNat ++ l).length :=
  nameLen_nameStore (h.label_fits.trans_lt h.nameMax_lt)

/-- After the first label the rest of the name stands at the new `DNS_POS`. -/
theorem NameAt.rest : NameAt (readLabel l s) ls e tail where
  labels l' hl' := h.labels l' (List.mem_cons_of_mem _ hl')
  ending := by
    rw [readLabel, advance_dreg, nameStore_dreg]
    exact h.ending
  tail_ne ht := .inl ((h.tail_ne ht).resolve_right fun hnil => List.cons_ne_nil _ _ hnil.1)
  holds := by
    have hholds := h.holds
    rw [wireName_cons, holdsAt_append] at hholds
    rw [h.dnsPos_readLabel]
    exact hholds.2.congr (by simp [readLabel]) (by simp [readLabel])
  below := by
    have hbelow := h.below
    rw [wireName_cons, List.length_append] at hbelow
    rw [h.dnsPos_readLabel, readLabel, advance_dnsLen, nameStore_dnsLen]
    omega
  fits := by
    have hfits := h.fits
    rw [appendedText_cons_append (h.labels l List.mem_cons_self).1, List.length_append] at hfits
    rw [h.nameLen_readLabel, readLabel, advance_params, nameStore_params]
    omega
  nameMax_lt := by
    rw [readLabel, advance_params, nameStore_params]
    exact h.nameMax_lt

end

/-- The end of a name: a terminator adds nothing, a pointer adds the name registered at its offset. -/
theorem decItems_endItem {s : State} {e : NameEnd} {tail : List Byte} (h : NameAt s [] e tail) (fuel : Nat)
    (k : List (Word × Nat)) :
    decItems (fuel + 1) k s =
      .ok k (advance (endItem e).length (nameStore (appendedText s.nameLen.toNat [] tail) s)) := by
  have hbelow := h.below
  have hholds := h.holds
  rw [wireName_nil] at hbelow hholds
  cases e with
  | terminator =>
    obtain rfl : tail = [] := h.ending
    have hnil : appendedText s.nameLen.toNat [] [] = [] := ite_self _
    rw [decItems_terminator hbelow ((holdsAt_cons _ _ _ _).mp hholds).1, hnil]
    rfl
  | pointer off =>
    obtain ⟨hoff, hreg⟩ := h.ending
    simp only [endItem, pointerBytes_length] at hbelow
    simp only [endItem, pointerBytes, holdsAt_cons] at hholds
    obtain ⟨hfirst, hsecond, _⟩ := hholds
    have hpos : (advance 1 s).dnsPos.toNat = s.dnsPos.toNat + 1 := dnsPos_advance (by omega)
    have hbyte : 0xC0 ≤ (messageByte s s.dnsPos.toNat).toNat := by
      rw [hfirst, pointerBytes_first_toNat hoff]
      omega
    have htext : appendedText s.nameLen.toNat [] tail = separator s.nameLen.toNat ++ tail :=
      appendedText_nil fun ht => ((h.tail_ne ht).resolve_left nofun).2
    have hpointer := decPointer_of_registered (s := advance 1 s) (p0 := messageByte s s.dnsPos.toNat) (nm := tail)
      h.nameMax_lt (by rw [hpos, advance_dnsLen]; omega)
      (by
        rw [hpos, advance_dreg, hfirst]
        exact (congrArg (fun b => mapGet (pointerOffset _ b) s.dreg) hsecond).trans
          (by rw [pointerOffset_pointerBytes hoff, hreg]))
      (by rw [advance_nameLen, ← htext]; exact h.fits)
    rw [decItems_pointer (by omega) hbyte, hpointer, bind_ok, nameStore_advance, advance_advance, htext]
    rfl

/-- The whole loop: the text of the name is appended, `DNS_POS` stands after its last item, and every label awaits
registration, the last one first. -/
theorem decItems_of_nameAt {s : State} {ls : List (List Byte)} {e : NameEnd} {tail : List Byte} (h : NameAt s ls e tail)
    {fuel : Nat} (hfuel : s.dnsLen.toNat - s.dnsPos.toNat ≤ fuel) (k : List (Word × Nat)) :
    decItems fuel k s =
      .ok ((pendingAt s.dnsPos.toNat s.nameLen.toNat ls).reverse ++ k)
        (advance (wireName ls e).length (nameStore (appendedText s.nameLen.toNat ls tail) s)) := by
  have hend := endItem_length_pos e
  induction ls generalizing s fuel k with
  | nil =>
    have hbelow := h.below
    rw [wireName_nil] at hbelow
    obtain ⟨fuel, rfl⟩ := Nat.exists_eq_add_of_lt (show 0 < fuel by omega)
    rw [Nat.zero_add, decItems_endItem h]
    rfl
  | cons l ls ih =>
    have hbelow := h.label_below
    rw [labelItem_length] at hbelow
    have hl := h.labels l List.mem_cons_self
    obtain ⟨fuel, rfl⟩ := Nat.exists_eq_add_of_lt (show 0 < fuel by omega)
    have hholds := h.holds
    rw [wireName_cons, holdsAt_append] at hholds
    have hloop := ih h.rest (fuel := fuel)
      (by rw [h.dnsPos_readLabel, readLabel, advance_dnsLen, nameStore_dnsLen, labelItem_length]; omega)
      ((s.dnsPos, s.nameLen.toNat + (separator s.nameLen.toNat).length) :: k)
    rw [Nat.zero_add, decItems_label h.nameMax_lt hl hholds.1 h.label_below h.label_fits, hloop, h.dnsPos_readLabel,
      h.nameLen_readLabel, readLabel, nameStore_advance, ← nameStore_append, advance_advance,
      ← appendedText_cons_append hl.1, wireName_cons, List.length_append (as := labelItem l), pendingAt, List.reverse_cons,
      List.append_assoc, List.singleton_append, BitVec.ofNat_toNat, BitVec.setWidth_eq]

/-! ### Registration -/

/-- `RegPut` of each entry in order, up to the first that the registry refuses (R195, R197). -/
def registerEntries : List (Word × List Byte) → State → Res Unit
  | [], s => .ok () s
  | (start, nm) :: es, s =>
    match regPut s.params.regCap wordLt s.dreg start nm with
    | none => .raise .dnsRegFull s.dnsPos s
    | some m => registerEntries es (s.setDreg m)

theorem registerEntries_cons_of_none {s : State} {start : Word} {nm : List Byte}
    (h : regPut s.params.regCap wordLt s.dreg start nm = none) (es : List (Word × List Byte)) :
    registerEntries ((start, nm) :: es) s = .raise .dnsRegFull s.dnsPos s := by
  simp only [registerEntries, h]

theorem registerEntries_cons_of_some {s : State} {start : Word} {nm : List Byte} {m : List (Word × List Byte)}
    (h : regPut s.params.regCap wordLt s.dreg start nm = some m) (es : List (Word × List Byte)) :
    registerEntries ((start, nm) :: es) s = registerEntries es (s.setDreg m) := by
  simp only [registerEntries, h]

theorem registerEntries_append (es fs : List (Word × List Byte)) (s : State) :
    registerEntries (es ++ fs) s = (registerEntries es s).bind fun _ t => registerEntries fs t := by
  induction es generalizing s with
  | nil => rfl
  | cons x es ih =>
    obtain ⟨start, nm⟩ := x
    rw [List.cons_append]
    cases h : regPut s.params.regCap wordLt s.dreg start nm with
    | none => rw [registerEntries_cons_of_none h, registerEntries_cons_of_none h, bind_raise]
    | some m => rw [registerEntries_cons_of_some h, registerEntries_cons_of_some h, ih]

/-- The entry that `DNS.DEC` puts for a pair that awaits registration: the suffix of the name from its index on. -/
def pendingEntry (s : State) (p : Word × Nat) : Word × List Byte := (p.1, nameSlice s p.2 (s.nameLen.toNat - p.2))

theorem decRegister_eq (k : List (Word × Nat)) (s : State) :
    decRegister k s = registerEntries (k.map (pendingEntry s)) s := by
  induction k generalizing s with
  | nil => rfl
  | cons p k ih =>
    obtain ⟨start, idx⟩ := p
    have hentry : ∀ m, pendingEntry (s.setDreg m) = pendingEntry s := fun m =>
      funext fun q => congrArg (Prod.mk q.1) (nameSlice_congr fun _ _ => rfl)
    rw [List.map_cons, pendingEntry]
    cases hput : regPut s.params.regCap wordLt s.dreg start (nameSlice s idx (s.nameLen.toNat - idx)) with
    | none => simp only [decRegister, hput, registerEntries_cons_of_none hput]
    | some m => simp only [decRegister, hput, registerEntries_cons_of_some hput, ih, hentry]

theorem nameSlice_eq_drop (s : State) (i : Nat) : nameSlice s i (s.nameLen.toNat - i) = (currentName s).drop i := by
  refine List.ext_getElem (by rw [List.length_drop, currentName, nameSlice_length, nameSlice_length]) fun k _ _ => ?_
  simp only [currentName, List.getElem_drop, nameSlice_getElem, Nat.zero_add]

/-- The entries of the suffixes of a name, each under the position where it begins. -/
def suffixEntries (sfx : List (Nat × List Byte)) : List (Word × List Byte) :=
  sfx.map fun e => (BitVec.ofNat 32 e.1, e.2)

/-- What awaits registration after the loop are the suffixes of the name that the loop has read. -/
theorem pendingAt_entries {s : State} {ls : List (List Byte)} {tail pre : List Byte} (hls : ∀ l ∈ ls, 1 ≤ l.length)
    (hname : currentName s = pre ++ appendedText pre.length ls tail) (pos : Nat) :
    (pendingAt pos pre.length ls).map (pendingEntry s) = suffixEntries (suffixesAt pos tail ls) := by
  induction ls generalizing pre pos with
  | nil => rfl
  | cons l ls ih =>
    have hdrop : (currentName s).drop (pre.length + (separator pre.length).length) = nameText (l :: ls) tail := by
      rw [hname, appendedText_cons, ← List.append_assoc, ← List.length_append, List.drop_left]
    have hlen : pre.length + (separator pre.length ++ l).length = (pre ++ (separator pre.length ++ l)).length :=
      List.length_append.symm
    rw [appendedText_cons_append (hls l List.mem_cons_self), ← List.append_assoc, hlen] at hname
    rw [pendingAt, List.map_cons, suffixesAt_cons, suffixEntries, List.map_cons, pendingEntry, nameSlice_eq_drop, hdrop,
      hlen, ih (fun l' hl' => hls l' (List.mem_cons_of_mem _ hl')) hname]
    rfl

/-- The positions rise and fit 32 bits: no two suffixes begin at the same position. -/
def RisingPositions (sfx : List (Nat × List Byte)) : Prop :=
  sfx.Pairwise (fun e e' => e.1 < e'.1) ∧ ∀ e ∈ sfx, e.1 < 2 ^ 32

theorem risingPositions_suffixesAt {pos : Nat} {tail : List Byte} {ls : List (List Byte)}
    (hfit : pos + (labelItems ls).length ≤ 2 ^ 32) : RisingPositions (suffixesAt pos tail ls) := by
  refine ⟨?_, fun e he => (position_of_mem_suffixesAt he).2.trans_le hfit⟩
  clear hfit
  induction ls generalizing pos with
  | nil => exact .nil
  | cons l ls ih =>
    rw [suffixesAt_cons]
    refine List.pairwise_cons.mpr ⟨fun e he => ?_, ih⟩
    have := (position_of_mem_suffixesAt he).1
    rw [labelItem_length] at this
    show pos < e.1
    omega

theorem RisingPositions.drop {sfx : List (Nat × List Byte)} (h : RisingPositions sfx) (k : Nat) :
    RisingPositions (sfx.drop k) :=
  ⟨h.1.drop, fun e he => h.2 e (List.mem_of_mem_drop he)⟩

theorem RisingPositions.tail {e : Nat × List Byte} {sfx : List (Nat × List Byte)} (h : RisingPositions (e :: sfx)) :
    RisingPositions sfx := h.drop 1

/-- No later suffix begins where the first one does. -/
theorem RisingPositions.suffixAt_head {e : Nat × List Byte} {sfx : List (Nat × List Byte)}
    (h : RisingPositions (e :: sfx)) : suffixAt (BitVec.ofNat 32 e.1) sfx = none := by
  refine suffixAt_eq_none fun e' he' => ?_
  have hlt := (List.pairwise_cons.mp h.1).1 e' he'
  have hword := h.2 e List.mem_cons_self
  rw [BitVec.toNat_ofNat]
  omega

theorem newKeys_cons (s : State) (e : Nat × List Byte) (sfx : List (Nat × List Byte)) :
    newKeys s (e :: sfx) = newKeys s sfx + if mapGet (BitVec.ofNat 32 e.1) s.dreg = none then 1 else 0 := by
  cases h : mapGet (BitVec.ofNat 32 e.1) s.dreg <;> simp [newKeys, h]

/-- `m` is the decode registry of `s` with the suffixes `sfx` registered. -/
structure Registered (s : State) (sfx : List (Nat × List Byte)) (m : List (Word × List Byte)) : Prop where
  sorted : mapSorted wordLt m
  length : m.length = s.dreg.length + newKeys s sfx
  get : ∀ off, mapGet off m = (suffixAt off sfx).or (mapGet off s.dreg)

theorem newKeys_congr {s t : State} (h : t.dreg = s.dreg) : newKeys t = newKeys s := by
  unfold newKeys
  rw [h]

theorem Registered.congr {s t : State} {sfx : List (Nat × List Byte)} {m : List (Word × List Byte)} (h : t.dreg = s.dreg)
    (hm : Registered t sfx m) : Registered s sfx m :=
  ⟨hm.sorted, by rw [hm.length, h, newKeys_congr h], fun off => by rw [hm.get, h]⟩

/-- With room for the new ones among them, the suffixes are registered, the last one first. -/
theorem registerEntries_of_room {s : State} {sfx : List (Nat × List Byte)} (hs : mapSorted wordLt s.dreg)
    (hpos : RisingPositions sfx) (hroom : roomFor s s.dreg.length (newKeys s sfx)) :
    ∃ m, registerEntries (suffixEntries sfx).reverse s = .ok () (s.setDreg m) ∧ Registered s sfx m := by
  induction sfx with
  | nil => exact ⟨s.dreg, rfl, hs, rfl, fun _ => rfl⟩
  | cons e sfx ih =>
    rw [newKeys_cons] at hroom
    obtain ⟨m, hrun, hm⟩ := ih hpos.tail fun cap hcap => le_trans (by omega) (hroom cap hcap)
    have hold : mapGet (BitVec.ofNat 32 e.1) m = mapGet (BitVec.ofNat 32 e.1) s.dreg := by
      rw [hm.get, hpos.suffixAt_head, Option.none_or]
    obtain ⟨hnone, hsome⟩ :=
      insertionLaw_of_keyOrder (cap := s.params.regCap) (k := BitVec.ofNat 32 e.1) (v := e.2) wordLt_order hm.sorted
    cases hput : regPut s.params.regCap wordLt m (BitVec.ofNat 32 e.1) e.2 with
    | none =>
      obtain ⟨hnew, hfull⟩ := hnone.mp hput
      have hcap := hroom _ hfull
      rw [hold] at hnew
      rw [hnew, if_pos rfl, hm.length] at hcap
      omega
    | some n =>
      obtain ⟨hsorted, hget, hlen⟩ := hsome n hput
      refine ⟨n, ?_, hsorted, ?_, fun off => ?_⟩
      · rw [suffixEntries, List.map_cons, List.reverse_cons, registerEntries_append, ← suffixEntries, hrun, bind_ok,
          registerEntries_cons_of_some (s := s.setDreg m) hput]
        rfl
      · rw [hlen, hold, newKeys_cons, hm.length]
        cases mapGet (BitVec.ofNat 32 e.1) s.dreg <;> rfl
      · have hword : e.1 = off.toNat ↔ off = BitVec.ofNat 32 e.1 := by
          have := hpos.2 e List.mem_cons_self
          rw [← BitVec.toNat_inj, BitVec.toNat_ofNat, Nat.mod_eq_of_lt this, eq_comm]
        rw [hget, suffixAt_cons, hm.get]
        by_cases h : off = BitVec.ofNat 32 e.1
        · rw [if_pos h, if_pos (hword.mpr h), Option.some_or]
        · rw [if_neg h, if_neg fun h' => h (hword.mp h')]

/-- A suffix at a new position that finds the registry full after the later ones stops the registration. -/
theorem registerEntries_of_full {s : State} {sfx : List (Nat × List Byte)} {k : Nat} {entry : Nat × List Byte}
    (hs : mapSorted wordLt s.dreg) (hpos : RisingPositions sfx) (hk : sfx[k]? = some entry)
    (hnew : mapGet (BitVec.ofNat 32 entry.1) s.dreg = none)
    (hfull : s.params.regCap = some (s.dreg.length + newKeys s (sfx.drop (k + 1)))) :
    ∃ m, registerEntries (suffixEntries sfx).reverse s = .raise .dnsRegFull s.dnsPos (s.setDreg m) ∧
      Registered s (sfx.drop (k + 1)) m := by
  obtain ⟨hlt, hentry⟩ := List.getElem?_eq_some_iff.mp hk
  have hdrop : sfx.drop k = entry :: sfx.drop (k + 1) := by rw [List.drop_eq_getElem_cons hlt, hentry]
  obtain ⟨m, hrun, hm⟩ := registerEntries_of_room hs (hpos.drop (k + 1)) (s := s) fun cap hcap => by
    rw [hfull] at hcap
    exact (Option.some.inj hcap).le
  refine ⟨m, ?_, hm⟩
  have hput : regPut s.params.regCap wordLt m (BitVec.ofNat 32 entry.1) entry.2 = none := by
    rw [regPut_eq_none_iff, hm.get, (hdrop ▸ hpos.drop k : RisingPositions (entry :: _)).suffixAt_head, Option.none_or,
      hm.length]
    exact ⟨hnew, hfull⟩
  have hsplit : (suffixEntries sfx).reverse =
      (suffixEntries (sfx.drop (k + 1))).reverse ++
        (BitVec.ofNat 32 entry.1, entry.2) :: (suffixEntries (sfx.take k)).reverse := by
    conv_lhs => rw [← List.take_append_drop k sfx, hdrop]
    simp [suffixEntries]
  rw [hsplit, registerEntries_append, hrun, bind_ok, registerEntries_cons_of_none (s := s.setDreg m) hput]
  rfl

/-! ### The command -/

theorem dnsWindow_of_fits {s : State} (h : windowFits s) : dnsWindow s = .ok () s := by
  rcases dnsWindow_cases s with ⟨e, _⟩ | ⟨_, hnot⟩
  · exact e
  · unfold windowFits at h
    omega

theorem dnsWindow_of_not_fits {s : State} (h : ¬ windowFits s) : dnsWindow s = .raise .bounds s.dnsBase s := by
  rcases dnsWindow_cases s with ⟨_, hfits⟩ | ⟨e, _⟩
  · exact absurd hfits h
  · exact e

theorem exec_dnsDec (s : State) : exec .dnsDec s = finish 0x41000000#32 (dnsDecode s) := rfl

theorem dnsDecode_of_window {s : State} (h : windowFits s) :
    dnsDecode s =
      (decItems (s.dnsLen.toNat - s.dnsPos.toNat) [] (s.setNameLen 0#32)).bind fun k s => decRegister k s := by
  rw [dnsDecode, dnsWindow_of_fits h, bind_ok]

theorem currentName_congr {s t : State} (hlen : t.nameLen = s.nameLen) (hread : ∀ i, nameRead t i = nameRead s i) :
    currentName t = currentName s := by
  rw [currentName, hlen]
  exact nameSlice_congr fun _ _ => hread _

/-- `s` with the name read that the labels `ls`, the end `e` and the registered name `tail` make, nothing registered. -/
def decoded (ls : List (List Byte)) (e : NameEnd) (tail : List Byte) (s : State) : State :=
  advance (wireName ls e).length (nameStore (nameText ls tail) (s.setNameLen 0#32))

theorem decoded_eq (ls : List (List Byte)) (e : NameEnd) (tail : List Byte) (s : State) :
    decoded ls e tail s =
      { s with
        dnsPos := BitVec.ofNat 32 (s.dnsPos.toNat + (wireName ls e).length),
        nameLen := BitVec.ofNat 32 (nameText ls tail).length, name := (decoded ls e tail s).name } := by
  rw [decoded, nameStore_eq, setNameLen_nameLen, BitVec.toNat_ofNat, Nat.zero_mod, Nat.zero_add]
  rfl

section

variable {s : State} {ls : List (List Byte)} {e : NameEnd} {tail : List Byte}

@[simp] theorem decoded_dreg (ls : List (List Byte)) (e : NameEnd) (tail : List Byte) (s : State) :
    (decoded ls e tail s).dreg = s.dreg := by
  rw [decoded_eq]

@[simp] theorem decoded_params (ls : List (List Byte)) (e : NameEnd) (tail : List Byte) (s : State) :
    (decoded ls e tail s).params = s.params := by
  rw [decoded_eq]

@[simp] theorem decoded_fault (ls : List (List Byte)) (e : NameEnd) (tail : List Byte) (s : State) :
    (decoded ls e tail s).fault = s.fault := by
  rw [decoded_eq]

theorem currentName_decoded (h : (nameText ls tail).length < 2 ^ 32) :
    currentName (decoded ls e tail s) = nameText ls tail := by
  have hname : currentName (nameStore (nameText ls tail) (s.setNameLen 0#32)) = [] ++ nameText ls tail :=
    currentName_nameStore (by simpa using h)
  rw [← List.nil_append (nameText ls tail), ← hname]
  exact currentName_congr rfl fun _ => rfl

theorem nameRead_decoded_other (h : (nameText ls tail).length < 2 ^ 32) {i : Nat} (hi : (nameText ls tail).length ≤ i) :
    nameRead (decoded ls e tail s) i = nameRead s i := by
  rw [decoded, nameRead_advance, nameRead_nameStore (by simpa using h), if_neg (by simp; omega)]
  rfl

/-- `DNS.DEC` on a name that lies in the message: the name is read, then its suffixes are registered. -/
theorem dnsDecode_of_nameAt (hw : windowFits s) (h : NameAt (s.setNameLen 0#32) ls e tail) :
    dnsDecode s =
      registerEntries (suffixEntries (suffixesAt s.dnsPos.toNat tail ls)).reverse (decoded ls e tail s) := by
  have hfits : (nameText ls tail).length < 2 ^ 32 :=
    ((Nat.zero_add (nameText ls tail).length).ge.trans h.fits).trans_lt h.nameMax_lt
  have hloop := decItems_of_nameAt h (Nat.le_refl _) []
  have hpend := pendingAt_entries (s := decoded ls e tail s) (pre := []) (tail := tail)
    (fun l hl => (h.labels l hl).1) (currentName_decoded hfits) s.dnsPos.toNat
  rw [List.append_nil] at hloop
  rw [dnsDecode_of_window hw]
  exact (bind_of_ok hloop _).trans (by rw [decRegister_eq, List.map_reverse]; exact hpend ▸ rfl)

end

end Sys2Proof.Machine

/-! PROOF. The statements about `DNS.DEC` (43_dns_name.md R197): names that are read, faults, and the frame. -/

namespace Sys2Proof.Machine

open Sys2Proof Sys2Proof.Claims

/-! ### A name read from the start -/

theorem Params.nameMax_lt {p : Params} (h : p.wf = true) : p.nameMax < 2 ^ 32 := (Params.sizes_lt h).2

/-- What the statements say of a name in the message is what the loop of `DNS.DEC` needs at its start. -/
theorem nameAt_start {s : State} {ls : List (List Byte)} {e : NameEnd} {tail : List Byte} (hp : s.params.wf = true)
    (hls : ∀ l ∈ ls, 1 ≤ l.length ∧ l.length ≤ 191) (hend : EndsIn s.dreg tail e)
    (htail : tail = [] → e = .terminator ∨ ls = []) (hholds : messageHolds s (wireName ls e))
    (hbelow : s.dnsPos.toNat + (wireName ls e).length ≤ s.dnsLen.toNat)
    (hfits : (nameText ls tail).length ≤ s.params.nameMax) : NameAt (s.setNameLen 0#32) ls e tail where
  labels := hls
  ending := hend
  tail_ne ht := (htail ht).imp_right fun hnil => ⟨hnil, rfl⟩
  holds := (messageHolds_iff _ _).mp hholds
  below := hbelow
  fits := (Nat.zero_add (nameText ls tail).length).le.trans hfits
  nameMax_lt := Params.nameMax_lt hp

/-- Under the invariant no empty name is registered, so that a pointer always stands for some text. -/
theorem nameAt_of_inv {s : State} {ls : List (List Byte)} {e : NameEnd} {tail : List Byte} (h : Safety.Inv s)
    (hls : ∀ l ∈ ls, 1 ≤ l.length ∧ l.length ≤ 191) (hend : EndsIn s.dreg tail e)
    (hholds : messageHolds s (wireName ls e))
    (hbelow : s.dnsPos.toNat + (wireName ls e).length ≤ s.dnsLen.toNat)
    (hfits : (nameText ls tail).length ≤ s.params.nameMax) : NameAt (s.setNameLen 0#32) ls e tail := by
  refine nameAt_start h.params hls hend (fun ht => ?_) hholds hbelow hfits
  cases e with
  | terminator => exact .inl rfl
  | pointer off =>
    obtain ⟨_, _, hlegal⟩ := h.dreg
    obtain ⟨hpos, _⟩ := hlegal _ (mem_of_mapGet hend.2)
    rw [ht] at hpos
    exact absurd hpos (Nat.not_succ_le_zero 0)

theorem currentName_setDreg (s : State) (m : List (Word × List Byte)) : currentName (s.setDreg m) = currentName s :=
  currentName_congr rfl fun _ => rfl

theorem currentName_faulted (s : State) (code : Byte) (pos cmd : Word) :
    currentName (faulted s code pos cmd) = currentName s :=
  currentName_congr rfl fun _ => rfl

theorem NameAt.text_lt {s : State} {ls : List (List Byte)} {e : NameEnd} {tail : List Byte}
    (h : NameAt (s.setNameLen 0#32) ls e tail) : (nameText ls tail).length < 2 ^ 32 :=
  ((Nat.zero_add (nameText ls tail).length).ge.trans h.fits).trans_lt h.nameMax_lt

/-- What the name read leaves: `DNS_POS` after it, its text in `NAME`, and every byte after the text as before. -/
theorem decoded_spec {s : State} {ls : List (List Byte)} {e : NameEnd} {tail : List Byte}
    (h : NameAt (s.setNameLen 0#32) ls e tail) :
    decoded ls e tail s =
        { s with
          dnsPos := BitVec.ofNat 32 (s.dnsPos.toNat + (wireName ls e).length),
          nameLen := BitVec.ofNat 32 (nameText ls tail).length, name := (decoded ls e tail s).name } ∧
      currentName (decoded ls e tail s) = nameText ls tail ∧
      ∀ i, (nameText ls tail).length ≤ i → nameRead (decoded ls e tail s) i = nameRead s i :=
  ⟨decoded_eq ls e tail s, currentName_decoded h.text_lt, fun _ => nameRead_decoded_other h.text_lt⟩

/-- A name of no label has no suffix to register. -/
theorem exec_dnsDec_lone {s : State} {e : NameEnd} {tail : List Byte} (hw : windowFits s)
    (h : NameAt (s.setNameLen 0#32) [] e tail) : exec .dnsDec s = .next (decoded [] e tail s) := by
  rw [exec_dnsDec, dnsDecode_of_nameAt hw h]
  rfl

section

variable {s : State} {ls : List (List Byte)} {e : NameEnd} {tail : List Byte} (hinv : Safety.Inv s) (hw : windowFits s)
  (h : NameAt (s.setNameLen 0#32) ls e tail)

include h

theorem NameAt.rising : RisingPositions (suffixesAt s.dnsPos.toNat tail ls) := by
  have hbelow : s.dnsPos.toNat + (wireName ls e).length ≤ s.dnsLen.toNat := h.below
  have := s.dnsLen.isLt
  rw [wireName_length] at hbelow
  exact risingPositions_suffixesAt (by omega)

include hinv hw

/-- `DNS.DEC` on a name with room for its new suffixes. -/
theorem exec_dnsDec_of_room (hroom : roomFor s s.dreg.length (newKeys s (suffixesAt s.dnsPos.toNat tail ls))) :
    ∃ m, exec .dnsDec s = .next ((decoded ls e tail s).setDreg m) ∧
      Registered s (suffixesAt s.dnsPos.toNat tail ls) m := by
  have hregs := decoded_dreg ls e tail s
  obtain ⟨m, hrun, hm⟩ := registerEntries_of_room (s := decoded ls e tail s)
    (by rw [hregs]; exact hinv.dreg.1) h.rising (by unfold roomFor; rwa [decoded_params, hregs, newKeys_congr hregs])
  refine ⟨m, ?_, hm.congr hregs⟩
  rw [exec_dnsDec, dnsDecode_of_nameAt hw h, hrun, finish_ok]

/-- `DNS.DEC` on a name one of whose suffixes finds the registry full. -/
theorem exec_dnsDec_of_full {k : Nat} {entry : Nat × List Byte} (hrun : s.fault = false)
    (hk : (suffixesAt s.dnsPos.toNat tail ls)[k]? = some entry) (hnew : mapGet (BitVec.ofNat 32 entry.1) s.dreg = none)
    (hfull : s.params.regCap =
      some (s.dreg.length + newKeys s ((suffixesAt s.dnsPos.toNat tail ls).drop (k + 1)))) :
    ∃ m, exec .dnsDec s =
        .next (faulted ((decoded ls e tail s).setDreg m) 0x23#8 (decoded ls e tail s).dnsPos 0x41000000#32) ∧
      Registered s ((suffixesAt s.dnsPos.toNat tail ls).drop (k + 1)) m := by
  have hregs := decoded_dreg ls e tail s
  obtain ⟨m, hraise, hm⟩ := registerEntries_of_full (s := decoded ls e tail s) (by rw [hregs]; exact hinv.dreg.1) h.rising
    hk (by rwa [hregs]) (by rwa [decoded_params, hregs, newKeys_congr hregs])
  refine ⟨m, ?_, hm.congr hregs⟩
  rw [exec_dnsDec, dnsDecode_of_nameAt hw h, hraise, finish_raise,
    takeFault_eq_faulted (by rw [setDreg_fault, decoded_fault]; exact hrun)]
  rfl

end

/-! ### Faults on the first item -/

theorem bind_assoc {α β γ : Type} (r : Res α) (f : α → State → Res β) (g : β → State → Res γ) :
    (r.bind f).bind g = r.bind fun a s => (f a s).bind g := by
  cases r <;> rfl

/-- A label read in two pieces. -/
theorem decLabel_add (m n : Nat) (s : State) :
    decLabel (m + n) s = (decLabel m s).bind fun _ t => decLabel n t := by
  induction m generalizing s with
  | zero => rw [Nat.zero_add, decLabel, bind_ok]
  | succ m ih => simp only [Nat.succ_add, decLabel, bind_assoc, ih]

/-- A label that fills `NAME` before its end: the bytes `l` that fit are stored, and the next one is read before the fault. -/
theorem decLabel_of_overflow {s : State} {l : List Byte} {n : Nat} (hmax : s.params.nameMax < 2 ^ 32)
    (hread : HoldsAt s s.dnsPos.toNat l) (hbelow : s.dnsPos.toNat + (l.length + (n + 1)) ≤ s.dnsLen.toNat)
    (hfull : s.nameLen.toNat + l.length = s.params.nameMax) :
    decLabel (l.length + (n + 1)) s =
      .raise .dnsNameOvf (advance (l.length + 1) s).dnsPos (advance (l.length + 1) (nameStore l s)) := by
  have hpos : (advance l.length (nameStore l s)).dnsPos.toNat = s.dnsPos.toNat + l.length :=
    (dnsPos_advance (by rw [nameStore_dnsPos, nameStore_dnsLen]; omega)).trans (by rw [nameStore_dnsPos])
  have hlen : (nameStore l s).nameLen.toNat = s.nameLen.toNat + l.length := nameLen_nameStore (by omega)
  rw [decLabel_add, decLabel_of_room hmax hread (by omega) (by omega), bind_ok, decLabel,
    dnsRd8_of_lt (by rw [hpos, advance_dnsLen, nameStore_dnsLen]; omega), bind_ok,
    nameAppend_of_le (by rw [advance_params, advance_params, nameStore_params, advance_nameLen, advance_nameLen, hlen, hfull]),
    bind_raise, advance_advance, advance_dnsPos, nameStore_dnsPos, advance_dnsPos]

/-- A fault of the loop is the fault of the command. -/
theorem exec_dnsDec_of_raise {s u : State} {c : ErrCode} {pos : Word} (hw : windowFits s) (hrun : u.fault = false)
    (h : decItems (s.dnsLen.toNat - s.dnsPos.toNat) [] (s.setNameLen 0#32) = .raise c pos u) :
    exec .dnsDec s = .next (faulted u (errCodeByte c) pos 0x41000000#32) := by
  rw [exec_dnsDec, dnsDecode_of_window hw, h, bind_raise, finish_raise, takeFault_eq_faulted hrun]

section

variable {s : State} (hw : windowFits s)

include hw

theorem exec_dnsDec_of_no_byte (hrun : s.fault = false) (h : s.dnsLen.toNat ≤ s.dnsPos.toNat) :
    exec .dnsDec s = .next (faulted { s with nameLen := 0#32 } 0x20#8 s.dnsPos 0x41000000#32) := by
  refine exec_dnsDec_of_raise (c := .dnsUnderrun) hw (u := s.setNameLen 0#32) hrun ?_
  rw [Nat.sub_eq_zero_of_le h]
  rfl

variable (hlt : s.dnsPos.toNat < s.dnsLen.toNat)

include hlt

/-- A fault of the first item, for any bound of the loop above 0. -/
theorem exec_dnsDec_of_item {u : State} {c : ErrCode} {pos : Word} (hu : u.fault = false)
    (h : ∀ fuel, decItems (fuel + 1) [] (s.setNameLen 0#32) = .raise c pos u) :
    exec .dnsDec s = .next (faulted u (errCodeByte c) pos 0x41000000#32) := by
  obtain ⟨fuel, hfuel⟩ := Nat.exists_eq_add_of_lt hlt
  refine exec_dnsDec_of_raise hw hu ?_
  rw [hfuel, show s.dnsPos.toNat + fuel + 1 - s.dnsPos.toNat = fuel + 1 by omega, h]

/-- The first byte announces more than stands below `DNS_LEN`. -/
theorem exec_dnsDec_of_underrun (hrun : s.fault = false)
    (h : ∀ fuel, decItems (fuel + 1) [] (s.setNameLen 0#32) =
      .raise .dnsUnderrun (advance 1 s).dnsPos (advance 1 (s.setNameLen 0#32))) :
    exec .dnsDec s =
      .next (faulted { s with nameLen := 0#32, dnsPos := s.dnsPos + 1#32 } 0x20#8 (s.dnsPos + 1#32) 0x41000000#32) := by
  rw [exec_dnsDec_of_item hw hlt (u := advance 1 (s.setNameLen 0#32)) hrun h, dnsPos_add]
  rfl

theorem exec_dnsDec_of_label_no_room (hrun : s.fault = false) (hpos : 1 ≤ (messageByte s s.dnsPos.toNat).toNat)
    (hle : (messageByte s s.dnsPos.toNat).toNat ≤ 0xBF)
    (hno : s.dnsLen.toNat < s.dnsPos.toNat + 1 + (messageByte s s.dnsPos.toNat).toNat) :
    exec .dnsDec s =
      .next (faulted { s with nameLen := 0#32, dnsPos := s.dnsPos + 1#32 } 0x20#8 (s.dnsPos + 1#32) 0x41000000#32) :=
  exec_dnsDec_of_underrun hw hlt hrun fun _ =>
    (decItems_length_byte (s := s.setNameLen 0#32) hlt hpos hle).trans (if_pos hno)

theorem exec_dnsDec_of_half_pointer (hrun : s.fault = false) (hbyte : 0xC0 ≤ (messageByte s s.dnsPos.toNat).toNat)
    (hlast : s.dnsLen.toNat = s.dnsPos.toNat + 1) :
    exec .dnsDec s =
      .next (faulted { s with nameLen := 0#32, dnsPos := s.dnsPos + 1#32 } 0x20#8 (s.dnsPos + 1#32) 0x41000000#32) := by
  refine exec_dnsDec_of_underrun hw hlt hrun fun _ => ?_
  have hend : (advance 1 (s.setNameLen 0#32)).dnsLen.toNat ≤ (advance 1 (s.setNameLen 0#32)).dnsPos.toNat :=
    hlast.le.trans (dnsPos_advance hlt).ge
  rw [decItems_pointer (s := s.setNameLen 0#32) hlt hbyte, decPointer_of_no_byte hend]
  rfl

theorem exec_dnsDec_of_unresolved (hrun : s.fault = false) (hbyte : 0xC0 ≤ (messageByte s s.dnsPos.toNat).toNat)
    (hroom : s.dnsPos.toNat + 1 < s.dnsLen.toNat)
    (hreg : mapGet (pointerOffset (messageByte s s.dnsPos.toNat) (messageByte s (s.dnsPos.toNat + 1))) s.dreg = none) :
    exec .dnsDec s =
      .next (faulted { s with nameLen := 0#32, dnsPos := s.dnsPos + 2#32 } 0x21#8 (s.dnsPos + 2#32) 0x41000000#32) := by
  have hpos : (advance 1 (s.setNameLen 0#32)).dnsPos.toNat = s.dnsPos.toNat + 1 := dnsPos_advance hlt
  have hraise : decPointer (messageByte s s.dnsPos.toNat) (advance 1 (s.setNameLen 0#32)) =
      .raise .dnsUnresolved (advance 2 s).dnsPos (advance 2 (s.setNameLen 0#32)) := by
    rw [decPointer_of_unresolved (by rw [hpos]; exact hroom) (by rw [hpos]; exact hreg), advance_advance]
    rfl
  rw [exec_dnsDec_of_item hw hlt (u := advance 2 (s.setNameLen 0#32)) hrun fun _ =>
    (decItems_pointer (s := s.setNameLen 0#32) hlt hbyte).trans (bind_of_raise hraise _), dnsPos_add]
  rfl

/-- A first label longer than `NAME_MAX`. -/
theorem exec_dnsDec_of_long_label (hrun : s.fault = false) (hp : s.params.wf = true)
    (hlong : s.params.nameMax < (messageByte s s.dnsPos.toNat).toNat) (hle : (messageByte s s.dnsPos.toNat).toNat ≤ 0xBF)
    (hroom : s.dnsPos.toNat + 1 + (messageByte s s.dnsPos.toNat).toNat ≤ s.dnsLen.toNat) :
    exec .dnsDec s =
      .next (faulted
        (advance (s.params.nameMax + 2)
          (nameStore (memRead s (s.dnsBase.toNat + (s.dnsPos.toNat + 1)) s.params.nameMax) (s.setNameLen 0#32)))
        0x22#8 (advance (s.params.nameMax + 2) s).dnsPos 0x41000000#32) := by
  have hlen : (memRead s (s.dnsBase.toNat + (s.dnsPos.toNat + 1)) s.params.nameMax).length = s.params.nameMax :=
    memRead_length _ _ _
  generalize hl : memRead s (s.dnsBase.toNat + (s.dnsPos.toNat + 1)) s.params.nameMax = l at hlen
  have hread : HoldsAt s (s.dnsPos.toNat + 1) l := by rw [HoldsAt, hlen, hl]
  have hpos : (advance 1 (s.setNameLen 0#32)).dnsPos.toNat = s.dnsPos.toNat + 1 := dnsPos_advance hlt
  have hsep : nameSeparator (advance 1 (s.setNameLen 0#32)) = .ok () (advance 1 (s.setNameLen 0#32)) := if_pos rfl
  obtain ⟨n, hn⟩ := Nat.exists_eq_add_of_lt hlong
  have hraise := decLabel_of_overflow (s := advance 1 (s.setNameLen 0#32)) (l := l) (n := n) (Params.nameMax_lt hp)
    (by rw [hpos]; exact hread.congr rfl fun _ => rfl) (by rw [hpos, hlen, advance_dnsLen, setNameLen_dnsLen]; omega)
    ((Nat.zero_add _).trans hlen)
  rw [hlen, ← Nat.add_assoc, ← hn, nameStore_advance, advance_advance, advance_advance, Nat.add_comm 1] at hraise
  refine exec_dnsDec_of_item hw hlt (c := .dnsNameOvf) (by rw [advance, setDnsPos_fault, nameStore_eq]; exact hrun)
    fun fuel => ?_
  rw [decItems_length_byte (s := s.setNameLen 0#32) hlt (Nat.one_le_of_lt hlong) hle]
  exact (if_neg (not_lt.mpr hroom)).trans ((bind_of_ok hsep _).trans (bind_of_raise hraise _))

end

end Sys2Proof.Machine

namespace Sys2Proof.Claims

open Sys2Proof Sys2Proof.Machine Sys2Proof.Safety

/-- Settles O46: a name of no label. -/
theorem decodeLoneItem : Obligations.DecodeLoneItem := by
  refine fun s hp hw => ⟨fun hlt hbyte => ?_, fun off nm hroom hoff hfirst hsecond hreg hfits => ?_⟩
  · have hat : NameAt (s.setNameLen 0#32) [] .terminator [] :=
      nameAt_start hp nofun rfl (fun _ => .inl rfl) ((messageHolds_iff _ _).mpr ((holdsAt_cons _ _ _ _).mpr ⟨hbyte, rfl⟩))
        hlt (Nat.zero_le _)
    rw [exec_dnsDec_lone hw hat, dnsPos_add]
    rfl
  · have hat : NameAt (s.setNameLen 0#32) [] (.pointer off) nm := by
      refine nameAt_start hp nofun ⟨hoff, hreg⟩ (fun _ => .inr rfl) ?_ hroom (by rwa [nameText_nil])
      rw [messageHolds_iff, wireName_nil, endItem, pointerBytes, holdsAt_cons, holdsAt_cons]
      exact ⟨hfirst, hsecond, rfl⟩
    obtain ⟨hframe, hname, hrest⟩ := decoded_spec hat
    rw [nameText_nil] at hframe hname hrest
    refine ⟨_, exec_dnsDec_lone hw hat, ?_, hname, hrest⟩
    rw [dnsPos_add]
    exact hframe

/-- Settles O47: the loop reads the name, and the registry has room for every suffix. -/
theorem decodeReadsName : Obligations.DecodeReadsName := by
  intro s ls e tail hinv hw hls hend hholds hbelow hfits hroom
  have hat := nameAt_of_inv hinv hls (by cases e <;> exact hend) hholds hbelow hfits
  obtain ⟨hframe, hname, hrest⟩ := decoded_spec hat
  obtain ⟨m, hexec, hm⟩ := exec_dnsDec_of_room hinv hw hat hroom
  refine ⟨_, hexec, ?_, (currentName_setDreg _ m).trans hname, hrest, hm.get⟩
  conv_lhs => rw [hframe]
  rfl

/-- Settles O49: the loop reads the name, and the registry is full at the suffix of index `k`. -/
theorem decodeStopsWhenRegistryFull : Obligations.DecodeStopsWhenRegistryFull := by
  intro s ls e tail sfx k entry hinv hrun hw hls hend hholds hbelow hfits hsfx hk hnew hfull
  subst hsfx
  have hat := nameAt_of_inv hinv hls (by cases e <;> exact hend) hholds hbelow hfits
  obtain ⟨hframe, hname, hrest⟩ := decoded_spec hat
  obtain ⟨m, hexec, hm⟩ := exec_dnsDec_of_full hinv hw hat hrun hk hnew hfull
  refine ⟨_, hexec, ?_, (currentName_faulted _ _ _ _).trans ((currentName_setDreg _ m).trans hname), hrest, hm.get⟩
  conv_lhs => rw [hframe]
  rfl

/-- Settles O48: the first item raises each fault before any suffix awaits registration. -/
theorem decodeFaultsAtOnce : Obligations.DecodeFaultsAtOnce := by
  refine fun s hp hrun => ⟨fun hw => ?_, fun hw h => exec_dnsDec_of_no_byte hw hrun h, fun hw hlt => ⟨?_, ?_, ?_, ?_⟩⟩
  · rw [exec_dnsDec, dnsDecode, dnsWindow_of_not_fits hw, bind_raise, finish_raise, takeFault_eq_faulted hrun]
    rfl
  · rintro n rfl hpos hle hno
    exact exec_dnsDec_of_label_no_room hw hlt hrun hpos hle hno
  · rintro n rfl hlong hle hroom
    have hlen : ((s.setNameLen 0#32).nameLen.toNat +
        (memRead s (s.dnsBase.toNat + (s.dnsPos.toNat + 1)) s.params.nameMax).length) = s.params.nameMax :=
      (Nat.zero_add _).trans (memRead_length _ _ _)
    have hread := fun i => nameRead_nameStore (hlen.trans_lt (Params.nameMax_lt hp)) i
    refine ⟨_, exec_dnsDec_of_long_label hw hlt hrun hp hlong hle hroom, ?_, fun i hi => ?_, fun i hi => ?_⟩
    · conv_lhs => rw [nameStore_eq, hlen]
      rfl
    · refine (hread i).trans ?_
      rw [hlen, if_pos ⟨Nat.zero_le i, hi⟩, List.getD_eq_getElem _ _ (by rwa [memRead_length])]
      exact (memRead_getElem _ _ _ _ _).trans (by rw [messageByte, ← Nat.add_assoc, ← Nat.add_assoc]; rfl)
    · exact (hread i).trans (if_neg (by rw [hlen]; omega))
  · exact fun hbyte hlast => exec_dnsDec_of_half_pointer hw hlt hrun hbyte hlast
  · exact fun hbyte hroom hreg => exec_dnsDec_of_unresolved hw hlt hrun hbyte hroom hreg

end Sys2Proof.Claims

/-! PROOF. What `DNS.DEC` can change, faulting or not (43_dns_name.md R193, R194, R197; 60_exceptions.md R244). -/

namespace Sys2Proof.Machine

open Sys2Proof Sys2Proof.Claims

/-- What `DNS.DEC` keeps from the state `s` on: `DNS_POS` has not moved back, the name lies in `NAME`, and every byte of
`NAME` after it is as before. -/
structure Reading (s t : State) : Prop where
  params : t.params = s.params
  dnsPos_le : s.dnsPos.toNat ≤ t.dnsPos.toNat
  nameLen_le : t.nameLen.toNat ≤ s.params.nameMax
  rest : ∀ i, t.nameLen.toNat ≤ i → nameRead t i = nameRead s i

theorem Reading.start (s : State) : Reading s (s.setNameLen 0#32) := ⟨rfl, le_rfl, Nat.zero_le _, fun _ _ => rfl⟩

theorem Reading.dnsRd8 {s : State} (t : State) (h : Reading s t) : Reading s (dnsRd8 t).state := by
  by_cases hlt : t.dnsPos.toNat < t.dnsLen.toNat
  · rw [dnsRd8_of_lt hlt]
    exact { h with dnsPos_le := h.dnsPos_le.trans (by rw [state_ok, dnsPos_advance hlt]; omega) }
  · rw [dnsRd8_of_le (by omega)]
    exact h

theorem Reading.nameAppend {s : State} (hp : s.params.wf = true) (c : Byte) (t : State) (h : Reading s t) :
    Reading s (nameAppend c t).state := by
  by_cases hlt : t.nameLen.toNat < t.params.nameMax
  · rw [nameAppend_of_lt hlt, state_ok]
    rw [h.params] at hlt
    have hword : t.nameLen.toNat + [c].length < 2 ^ 32 := Nat.lt_of_le_of_lt hlt (Params.nameMax_lt hp)
    refine ⟨by rw [nameStore_params, h.params], by rw [nameStore_dnsPos]; exact h.dnsPos_le, ?_, fun i hi => ?_⟩
    · rw [nameLen_nameStore hword]
      exact hlt
    · rw [nameLen_nameStore hword] at hi
      rw [nameRead_nameStore hword, if_neg (by omega)]
      exact h.rest i (by omega)
  · rw [nameAppend_of_le (by omega)]
    exact h

theorem Reading.decRegister {s t : State} (h : Reading s t) (k : List (Word × Nat)) :
    Reading s (decRegister k t).state := by
  rw [decRegister_frame]
  exact ⟨h.params, h.dnsPos_le, h.nameLen_le, h.rest⟩

theorem Reading.dnsDecode {s : State} (hp : s.params.wf = true) (hw : windowFits s) : Reading s (dnsDecode s).state := by
  rw [dnsDecode_of_window hw]
  exact bind_keeps (decItems_keeps Reading.dnsRd8 (Reading.nameAppend hp) _ _ (.start s)) fun k _ _ ht => ht.decRegister k

/-- `t` differs from `s` in what `DNS.DEC` may change, a fault taken or not. -/
theorem exec_dnsDec_frame {s t : State} (ht : exec .dnsDec s = .next t) :
    t = { s with
      dnsPos := t.dnsPos, nameLen := t.nameLen, name := t.name, dreg := t.dreg, fault := t.fault,
      errCode := t.errCode, errPos := t.errPos, errCmd := t.errCmd } := by
  obtain ⟨u, hfault, hunit⟩ := exec_frame ht
  rw [hfault, hunit]

/-- The only fault of the registrations is a full registry. -/
theorem decRegister_raise {k : List (Word × Nat)} {s u : State} {c : ErrCode} {pos : Word}
    (h : decRegister k s = .raise c pos u) : c = .dnsRegFull := by
  induction k generalizing s with
  | nil => cases h
  | cons p k ih =>
    rw [decRegister] at h
    split at h
    · cases h
      rfl
    · exact ih h

/-- Before the registrations begin no entry has been put. -/
theorem dnsDecode_raise_dreg {s u : State} {c : ErrCode} {pos : Word} (h : dnsDecode s = .raise c pos u)
    (hc : c ≠ .dnsRegFull) : u.dreg = s.dreg := by
  by_cases hw : windowFits s
  · rw [dnsDecode_of_window hw] at h
    rcases bind_eq_raise h with h | ⟨k, v, _, h⟩
    · have hframe := decItems_frame (s.dnsLen.toNat - s.dnsPos.toNat) [] (s.setNameLen 0#32)
      rw [h, state_raise] at hframe
      rw [hframe]
      rfl
    · exact absurd (decRegister_raise h) hc
  · rw [dnsDecode, dnsWindow_of_not_fits hw, bind_raise] at h
    cases h
    rfl

theorem dnsDecode_dnsPos_le {s : State} (hp : s.params.wf = true) :
    s.dnsPos.toNat ≤ (dnsDecode s).state.dnsPos.toNat := by
  by_cases hw : windowFits s
  · exact (Reading.dnsDecode hp hw).dnsPos_le
  · rw [dnsDecode, dnsWindow_of_not_fits hw, bind_raise, state_raise]

end Sys2Proof.Machine

namespace Sys2Proof.Claims

open Sys2Proof Sys2Proof.Machine Sys2Proof.Safety

/-- Settles O56: each byte read and each byte appended keeps `Reading`, and a fault taken changes the fault registers only. -/
theorem decodeFrame : Obligations.DecodeFrame := by
  intro s t hp hw ht
  have hread := Reading.dnsDecode hp hw
  have hfault : FaultFrame (dnsDecode s).state t := finish_faultFrame ht
  rw [FaultFrame] at hfault
  have hpos : t.dnsPos = (dnsDecode s).state.dnsPos := by rw [hfault]
  have hlen : t.nameLen = (dnsDecode s).state.nameLen := by rw [hfault]
  have hname : ∀ i, nameRead t i = nameRead (dnsDecode s).state i := nameRead_congr (by rw [hfault]) (by rw [hfault])
  refine ⟨hpos ▸ hread.dnsPos_le, hlen ▸ hread.nameLen_le, fun i hi => ?_, exec_dnsDec_frame ht⟩
  rw [hname]
  exact hread.rest i (hlen ▸ hi)

/-- Settles O20: every fault but `E_DNS_REG_FULL` is raised before the registrations begin. -/
theorem faultingDecodeRegistersNothing : Obligations.FaultingDecodeRegistersNothing := by
  intro s t hp hrun ht hfault
  have hframe := exec_dnsDec_frame ht
  have hstate := dnsDecode_frame s
  have hpos := dnsDecode_dnsPos_le hp
  rw [exec_dnsDec] at ht
  rcases finish_cases 0x41000000#32 (dnsDecode s) with ⟨u, hu, e⟩ | ⟨c, pos, u, hu, e⟩ <;> rw [e] at ht <;> cases ht
  · rw [hu, state_ok] at hstate
    rw [hstate] at hfault
    exact absurd (hrun.symm.trans hfault) Bool.false_ne_true
  · rw [hu, state_raise] at hstate hpos
    have hu_run : u.fault = false := by rw [hstate]; exact hrun
    refine ⟨fun hcode => ?_, ?_, ?_, ?_⟩
    · rw [takeFault_dreg]
      refine dnsDecode_raise_dreg hu fun hc => hcode ?_
      rw [takeFault_of_running hu_run, hc]
      rfl
    · rw [takeFault_of_running hu_run]
      exact hpos
    · rw [hframe]
    · rw [hframe]

end Sys2Proof.Claims

/-! PROOF. `DNS.ENC` (43_dns_name.md R190, R191, R201): one turn of its loop, the whole loop on a name of good labels, with or
without room for all of it, and, the other way round, what a name that was written without a fault looks like. -/

namespace Sys2Proof.Machine

open Sys2Proof Sys2Proof.Claims

/-! ### The encode registry beside the bytes written -/

/-- An outcome with the encode registry replaced. -/
def Res.setEreg {α : Type} (m : List (List Byte × Word)) : Res α → Res α
  | .ok a s => .ok a (s.setEreg m)
  | .raise c pos s => .raise c pos (s.setEreg m)

theorem memWrite_setEreg (m : List (List Byte × Word)) (s : State) (a : Nat) (v : List Byte) :
    memWrite (s.setEreg m) a v = (memWrite s a v).setEreg m := by
  induction v generalizing s a with
  | nil => rfl
  | cons b v ih => exact ih (bufWrite s a b) (a + 1)

theorem emit_setEreg (m : List (List Byte × Word)) (bs : List Byte) (s : State) :
    emit bs (s.setEreg m) = (emit bs s).setEreg m :=
  congrArg (advance bs.length) (memWrite_setEreg m s (dnsAddr s) bs)

/-- The bytes written do not depend on the registry. -/
theorem dnsWrAll_setEreg (m : List (List Byte × Word)) (bs : List Byte) (s : State) :
    dnsWrAll bs (s.setEreg m) = (dnsWrAll bs s).setEreg m := by
  induction bs generalizing s with
  | nil => rfl
  | cons b bs ih =>
    by_cases hlt : s.dnsPos.toNat < s.dnsLen.toNat
    · rw [dnsWrAll, dnsWrAll, dnsWr8_of_lt (s := s.setEreg m) hlt, dnsWr8_of_lt hlt, bind_ok, bind_ok, emit_setEreg, ih]
    · rw [dnsWrAll, dnsWrAll, dnsWr8_of_le (s := s.setEreg m) (not_lt.mp hlt), dnsWr8_of_le (not_lt.mp hlt)]
      rfl

theorem dnsWrAll_setEreg_self (bs : List Byte) (s : State) : (dnsWrAll bs s).setEreg s.ereg = dnsWrAll bs s :=
  (dnsWrAll_setEreg s.ereg bs s).symm

@[simp] theorem Res.setEreg_setEreg {α : Type} (m n : List (List Byte × Word)) (r : Res α) :
    (r.setEreg m).setEreg n = r.setEreg n := by
  cases r <;> rfl

/-- The registry `m` after the suffixes `sfx` have been put, each under the position where it begins; with `NC = 1` it is not
written. -/
def regNames (nc : Bool) (sfx : List (Nat × List Byte)) (m : List (List Byte × Word)) : List (List Byte × Word) :=
  if nc then m else sfx.foldl (fun m e => mapPut nameLt e.2 (BitVec.ofNat 32 e.1) m) m

@[simp] theorem regNames_nil (nc : Bool) (m : List (List Byte × Word)) : regNames nc [] m = m := ite_self _

theorem regNames_cons (nc : Bool) (e : Nat × List Byte) (sfx : List (Nat × List Byte)) (m : List (List Byte × Word)) :
    regNames nc (e :: sfx) m = regNames nc sfx (regNames nc [e] m) := by
  cases nc <;> rfl

theorem regNames_single (e : Nat × List Byte) (m : List (List Byte × Word)) :
    regNames false [e] m = mapPut nameLt e.2 (BitVec.ofNat 32 e.1) m := rfl

/-- The names of `sfx` are different, so that no entry is put over another. -/
def DistinctNames (sfx : List (Nat × List Byte)) : Prop := sfx.Pairwise fun e e' => e.2 ≠ e'.2

theorem distinctNames_suffixesAt {ls : List (List Byte)} (hls : ∀ l ∈ ls, 1 ≤ l.length) (pos : Nat) (tail : List Byte) :
    DistinctNames (suffixesAt pos tail ls) := by
  induction ls generalizing pos with
  | nil => exact .nil
  | cons l ls ih =>
    have hrest : ∀ l' ∈ ls, 1 ≤ l'.length := fun l' hl' => hls l' (List.mem_cons_of_mem _ hl')
    rw [suffixesAt_cons]
    refine List.pairwise_cons.mpr ⟨fun e he heq => ?_, ih hrest _⟩
    have hle := (length_of_mem_suffixesAt hrest he).1
    have hlt := nameText_length_lt_cons (hls l List.mem_cons_self) ls tail
    rw [← heq] at hle
    exact absurd hlt (not_lt.mpr hle)

theorem mapGet_regNames {nc : Bool} {sfx : List (Nat × List Byte)} (h : DistinctNames sfx) (m : List (List Byte × Word))
    (nm : List Byte) :
    mapGet nm (regNames nc sfx m) = if nc then mapGet nm m else (positionOf nm sfx).or (mapGet nm m) := by
  cases nc with
  | true => rfl
  | false =>
    rw [if_neg Bool.false_ne_true]
    induction sfx generalizing m with
    | nil => rfl
    | cons e sfx ih =>
      obtain ⟨hne, hrest⟩ := List.pairwise_cons.mp h
      rw [regNames_cons, ih hrest, regNames_single, mapGet_mapPut, positionOf_cons]
      by_cases hnm : nm = e.2
      · subst hnm
        rw [if_pos rfl, if_pos rfl, positionOf_eq_none fun e' he' => (hne e' he').symm, Option.none_or, Option.some_or]
      · rw [if_neg hnm, if_neg (Ne.symm hnm)]

/-! ### The first label of a name -/

theorem dot_not_mem_firstLabel (rem : List Byte) : dot ∉ firstLabel rem := fun h => by
  simpa using List.mem_takeWhile_imp h

theorem firstLabel_of_not_mem {l : List Byte} (h : dot ∉ l) : firstLabel l = l :=
  List.takeWhile_eq_self_iff.mpr fun c hc => by
    simpa using fun e : c = dot => h (e ▸ hc)

theorem firstLabel_append_dot {l : List Byte} (h : dot ∉ l) (rest : List Byte) : firstLabel (l ++ dot :: rest) = l := by
  rw [firstLabel, List.takeWhile_append_of_pos fun c hc => by simpa using fun e : c = dot => h (e ▸ hc)]
  simp

/-- A name is one label, or a label, a separator and the rest (R190). -/
theorem firstLabel_cases (rem : List Byte) :
    rem = firstLabel rem ∨ ∃ rest, rem = firstLabel rem ++ dot :: rest := by
  have hsplit := List.takeWhile_append_dropWhile (p := fun c => c != dot) (l := rem)
  cases h : rem.dropWhile fun c => c != dot with
  | nil =>
    rw [h, List.append_nil] at hsplit
    exact .inl hsplit.symm
  | cons c rest =>
    have hc : c = dot := by
      have := List.head_dropWhile_not (l := rem) (fun c => c != dot) (by rw [h]; exact List.cons_ne_nil _ _)
      simpa [h] using this
    rw [h, hc] at hsplit
    exact .inr ⟨rest, hsplit.symm⟩

/-! ### One turn of the loop -/

/-- What a turn does after its label, by what is left of the suffix: nothing, a last separator, or a separator and a name. -/
def encRest (nc : Bool) (fuel : Nat) (left : List Byte) (u : State) : Res Unit :=
  match left with
  | [] => dnsWr8 0x00#8 u
  | [_] => .raise .dnsLabelEmpty u.dnsPos u
  | _ :: rest => encSuffix nc fuel rest u

section

variable {nc : Bool} {fuel : Nat} {s t : State}

theorem encLookup_of_known {rem : List Byte} {off : Word} (h : mapGet rem s.ereg = some off) :
    encLookup false rem s = .ok (some off) s := by
  simp only [encLookup, h]
  rfl

/-- A suffix that is new, and for which there is room, is registered at `DNS_POS`. -/
theorem encLookup_of_new {rem : List Byte}
    (h : nc = false → mapGet rem s.ereg = none ∧ s.params.regCap ≠ some s.ereg.length) :
    encLookup nc rem s = .ok none (s.setEreg (regNames nc [(s.dnsPos.toNat, rem)] s.ereg)) := by
  rcases encLookup_cases nc rem s with ⟨rfl, e⟩ | ⟨rfl, off, hoff, _⟩ | ⟨rfl, _, _, e⟩ | ⟨rfl, _, hfull, _⟩
  · exact e
  · rw [(h rfl).1] at hoff
    cases hoff
  · rw [e, regNames_single, BitVec.ofNat_toNat, BitVec.setWidth_eq]
  · exact absurd hfull (h rfl).2

theorem encSuffix_of_found {rem : List Byte} {off : Word} (h : encLookup nc rem s = .ok (some off) t) :
    encSuffix nc (fuel + 1) rem s = encPointer off t := by
  rw [encSuffix, h, bind_ok]

theorem encSuffix_of_new {rem : List Byte} (h : encLookup nc rem s = .ok none t) :
    encSuffix nc (fuel + 1) rem s =
      (encLabel (firstLabel rem) t).bind fun _ u => encRest nc fuel (rem.drop (firstLabel rem).length) u := by
  rw [encSuffix, h, bind_ok]
  cases rem.drop (firstLabel rem).length with
  | nil => rfl
  | cons c rest => cases rest <;> rfl

section

variable {l : List Byte} (hl : dot ∉ l)

include hl

theorem encSuffix_last_label (h : encLookup nc l s = .ok none t) :
    encSuffix nc (fuel + 1) l s = (encLabel l t).bind fun _ u => dnsWr8 0x00#8 u := by
  rw [encSuffix_of_new h, firstLabel_of_not_mem hl, List.drop_length]
  rfl

theorem encSuffix_trailing_dot (h : encLookup nc (l ++ [dot]) s = .ok none t) :
    encSuffix nc (fuel + 1) (l ++ [dot]) s = (encLabel l t).bind fun _ u => .raise .dnsLabelEmpty u.dnsPos u := by
  rw [encSuffix_of_new h, firstLabel_append_dot hl, List.drop_left]
  rfl

theorem encSuffix_more_labels {rest : List Byte} (hne : rest ≠ []) (h : encLookup nc (l ++ dot :: rest) s = .ok none t) :
    encSuffix nc (fuel + 1) (l ++ dot :: rest) s = (encLabel l t).bind fun _ u => encSuffix nc fuel rest u := by
  obtain ⟨c, rest, rfl⟩ := List.exists_cons_of_ne_nil hne
  rw [encSuffix_of_new h, firstLabel_append_dot hl, List.drop_left]
  rfl

end

theorem encLabel_of_empty (s : State) : encLabel [] s = .raise .dnsLabelEmpty s.dnsPos s := rfl

theorem encLabel_of_long {l : List Byte} (h : 63 < l.length) (s : State) :
    encLabel l s = .raise .dnsLabelLong s.dnsPos s := by
  rw [encLabel, if_neg (by omega), if_pos h]

/-- A label of legal length is its length byte, then its bytes (R191). -/
theorem encLabel_of_length {l : List Byte} (hpos : 1 ≤ l.length) (hle : l.length ≤ 63) (s : State) :
    encLabel l s = dnsWrAll (labelItem l) s := by
  rw [encLabel, if_neg (by omega), if_neg (by omega)]
  rfl

theorem encPointer_of_le {off : Word} (h : off.toNat ≤ 0x3FFF) (s : State) :
    encPointer off s = dnsWrAll (pointerBytes off) s := if_neg (by omega)

theorem encPointer_of_gt {off : Word} (h : 0x3FFF < off.toNat) (s : State) :
    encPointer off s = .raise .dnsPtrRange s.dnsPos s := if_pos h

end

/-! ### The loop on a name of good labels -/

/-- How `DNS.ENC` ends a name: by a terminator after the whole of it, or, with `NC = 0`, by a pointer to its rest `tail`,
registered in `m` at an offset that a pointer can hold (R201). -/
def PointsTo (nc : Bool) (m : List (List Byte × Word)) (tail : List Byte) : NameEnd → Prop
  | .terminator => tail = []
  | .pointer off => nc = false ∧ tail ≠ [] ∧ off.toNat ≤ 0x3FFF ∧ mapGet tail m = some off

/-- The name that the labels `ls` and the rest `tail` make is one that `DNS.ENC` writes at `DNS_POS` as `wireName ls e`: good
labels, and no suffix registered but `tail`. -/
structure EncodableName (nc : Bool) (s : State) (ls : List (List Byte)) (e : NameEnd) (tail : List Byte) : Prop where
  labels : ∀ l ∈ ls, encodableLabel l
  ending : PointsTo nc s.ereg tail e
  fresh : nc = false → ∀ p ∈ suffixesAt s.dnsPos.toNat tail ls, mapGet p.2 s.ereg = none

theorem EncodableName.label_pos {nc : Bool} {s : State} {ls : List (List Byte)} {e : NameEnd} {tail : List Byte}
    (h : EncodableName nc s ls e tail) : ∀ l ∈ ls, 1 ≤ l.length := fun l hl => (h.labels l hl).1

theorem EncodableName.tail_label_pos {nc : Bool} {s : State} {l : List Byte} {ls : List (List Byte)} {e : NameEnd}
    {tail : List Byte} (h : EncodableName nc s (l :: ls) e tail) : ∀ l' ∈ ls, 1 ≤ l'.length := fun l' hl' =>
  h.label_pos l' (List.mem_cons_of_mem _ hl')

/-- A name with nothing after its last label ends in a terminator. -/
theorem EncodableName.end_of_nil {nc : Bool} {s : State} {ls : List (List Byte)} {e : NameEnd}
    (h : EncodableName nc s ls e []) : e = .terminator := by
  cases e with
  | terminator => rfl
  | pointer off => exact absurd rfl h.ending.2.1

/-- `s` after a turn that has written the label `l` of the suffix `rem`. -/
def encTurn (nc : Bool) (rem l : List Byte) (s : State) : State :=
  (emit (labelItem l) s).setEreg (regNames nc [(s.dnsPos.toNat, rem)] s.ereg)

section

variable {nc : Bool} {s : State} {l : List Byte} {ls : List (List Byte)} {e : NameEnd} {tail : List Byte}

/-- A shorter name is registered after a turn as it was before. -/
theorem mapGet_encTurn_of_shorter {rem nm : List Byte} (h : nm.length < rem.length) :
    mapGet nm (encTurn nc rem l s).ereg = mapGet nm s.ereg := by
  rw [encTurn, setEreg_ereg, mapGet_regNames (List.pairwise_singleton _ _), positionOf_cons,
    if_neg fun e : rem = nm => absurd h (e ▸ lt_irrefl _)]
  exact ite_self _

theorem EncodableName.turn (h : EncodableName nc s (l :: ls) e tail)
    (hroom : s.dnsPos.toNat + (labelItem l).length ≤ s.dnsLen.toNat) :
    EncodableName nc (encTurn nc (nameText (l :: ls) tail) l s) ls e tail where
  labels l' hl' := h.labels l' (List.mem_cons_of_mem _ hl')
  ending := by
    have hending := h.ending
    have hlt := nameText_length_lt_cons (h.label_pos l List.mem_cons_self) ls tail
    have hle := tail_length_le_nameText tail ls
    cases e with
    | terminator => exact hending
    | pointer off =>
      unfold PointsTo at hending ⊢
      rwa [mapGet_encTurn_of_shorter (hle.trans_lt hlt)]
  fresh hnc p hp := by
    have hlt := nameText_length_lt_cons (h.label_pos l List.mem_cons_self) ls tail
    have hle := (length_of_mem_suffixesAt h.tail_label_pos hp).1
    have hpos : (encTurn nc (nameText (l :: ls) tail) l s).dnsPos.toNat = s.dnsPos.toNat + (labelItem l).length :=
      dnsPos_emit hroom
    rw [mapGet_encTurn_of_shorter (hle.trans_lt hlt)]
    refine h.fresh hnc p ?_
    rw [suffixesAt_cons]
    exact List.mem_cons_of_mem _ (hpos ▸ hp)

/-- The room for the suffixes of a name suffices for those after its first label. -/
theorem roomFor_turn {rem : List Byte} {n : Nat} (h : nc = false → roomFor s s.ereg.length (n + 1))
    (hnew : nc = false → mapGet rem s.ereg = none) :
    nc = false → roomFor (encTurn nc rem l s) (encTurn nc rem l s).ereg.length n := by
  rintro rfl cap hcap
  have hle := h rfl cap (by rwa [encTurn, setEreg_params, emit_params] at hcap)
  rw [encTurn, setEreg_ereg, regNames_single, mapPut_length_new nameLt _ (hnew rfl)]
  omega

/-- The first suffix of an encodable name is new, and there is room for it. -/
theorem EncodableName.lookup (h : EncodableName nc s (l :: ls) e tail)
    (hroom : nc = false → roomFor s s.ereg.length (ls.length + 1)) :
    encLookup nc (nameText (l :: ls) tail) s =
      .ok none (s.setEreg (regNames nc [(s.dnsPos.toNat, nameText (l :: ls) tail)] s.ereg)) := by
  refine encLookup_of_new fun hnc => ⟨h.fresh hnc (_, _) List.mem_cons_self, fun hfull => ?_⟩
  have := hroom hnc _ hfull
  omega

/-- A turn on a good label: its bytes are written, then the terminator if nothing is left, or the rest in further turns. -/
theorem EncodableName.encSuffix_turn (h : EncodableName nc s (l :: ls) e tail)
    (hroom : nc = false → roomFor s s.ereg.length (ls.length + 1)) (fuel : Nat) :
    encSuffix nc (fuel + 1) (nameText (l :: ls) tail) s =
      (dnsWrAll (labelItem l) (s.setEreg (regNames nc [(s.dnsPos.toNat, nameText (l :: ls) tail)] s.ereg))).bind
        fun _ u => if nameText ls tail = [] then dnsWr8 0x00#8 u else encSuffix nc fuel (nameText ls tail) u := by
  obtain ⟨hpos, hle, hdot⟩ := h.labels l List.mem_cons_self
  have hlook := h.lookup hroom
  rw [← encLabel_of_length hpos hle]
  rw [nameText_cons] at hlook ⊢
  rcases dotted_cases tail ls with ⟨rfl, rfl, hrest⟩ | ⟨hmore, hrest⟩ <;> rw [hrest] at hlook ⊢
  · rw [List.append_nil] at hlook ⊢
    rw [encSuffix_last_label hdot hlook]
    rfl
  · have hne : nameText ls tail ≠ [] := by
      cases ls with
      | nil => rw [nameText_nil]; exact hmore.resolve_left (absurd rfl)
      | cons l' ls => exact nameText_ne_nil (h.label_pos l' (by simp)) ls tail
    simp only [encSuffix_more_labels hdot hne hlook, if_neg hne]

end

/-- The suffixes that `DNS.ENC` reaches: those that do not begin after `DNS_LEN`. -/
def reached (s : State) (sfx : List (Nat × List Byte)) : List (Nat × List Byte) :=
  sfx.filter fun p => p.1 ≤ s.dnsLen.toNat

theorem reached_of_room {s : State} {ls : List (List Byte)} {tail : List Byte} {pos : Nat}
    (h : pos + (labelItems ls).length ≤ s.dnsLen.toNat) :
    reached s (suffixesAt pos tail ls) = suffixesAt pos tail ls :=
  List.filter_eq_self.mpr fun p hp => decide_eq_true (by have := (position_of_mem_suffixesAt hp).2; omega)

theorem reached_of_no_room {s : State} {pos : Nat} (h : s.dnsLen.toNat < pos) (tail : List Byte) (ls : List (List Byte)) :
    reached s (suffixesAt pos tail ls) = [] :=
  List.filter_eq_nil_iff.mpr fun p hp => by
    have := (position_of_mem_suffixesAt hp).1
    simp only [decide_eq_true_eq]
    omega

/-- The whole loop on an encodable name writes its bytes in order, as far as there is room, and registers the suffixes that it
reaches. -/
theorem encSuffix_of_encodable {nc : Bool} {s : State} {ls : List (List Byte)} {e : NameEnd} {tail : List Byte}
    (h : EncodableName nc s ls e tail) (hroom : nc = false → roomFor s s.ereg.length ls.length)
    (hpos : s.dnsPos.toNat ≤ s.dnsLen.toNat) (hne : nameText ls tail ≠ []) {fuel : Nat}
    (hfuel : (nameText ls tail).length ≤ fuel) :
    encSuffix nc fuel (nameText ls tail) s =
      (dnsWrAll (wireName ls e) s).setEreg (regNames nc (reached s (suffixesAt s.dnsPos.toNat tail ls)) s.ereg) := by
  induction ls generalizing s fuel with
  | nil =>
    rw [nameText_nil] at hne hfuel ⊢
    have hpos := List.length_pos_of_ne_nil hne
    obtain ⟨fuel, rfl⟩ := Nat.exists_eq_add_of_lt (show 0 < fuel by omega)
    cases e with
    | terminator => exact absurd h.ending hne
    | pointer off =>
      obtain ⟨rfl, _, hoff, hreg⟩ := h.ending
      rw [Nat.zero_add, encSuffix_of_found (encLookup_of_known hreg), encPointer_of_le hoff]
      exact (dnsWrAll_setEreg_self _ _).symm
  | cons l ls ih =>
    have hlt := nameText_length_lt_cons (h.label_pos l List.mem_cons_self) ls tail
    obtain ⟨fuel, rfl⟩ := Nat.exists_eq_add_of_lt (show 0 < fuel by omega)
    have hhead : reached s (suffixesAt s.dnsPos.toNat tail (l :: ls)) =
        (s.dnsPos.toNat, nameText (l :: ls) tail) ::
          reached s (suffixesAt (s.dnsPos.toNat + (labelItem l).length) tail ls) := by
      rw [suffixesAt_cons]
      exact List.filter_cons_of_pos (decide_eq_true hpos)
    rw [Nat.zero_add, h.encSuffix_turn hroom, wireName_cons, dnsWrAll_append, dnsWrAll_setEreg, hhead]
    by_cases hfit : s.dnsPos.toNat + (labelItem l).length ≤ s.dnsLen.toNat
    · have hturn : (encTurn nc (nameText (l :: ls) tail) l s).dnsPos.toNat = s.dnsPos.toNat + (labelItem l).length :=
        dnsPos_emit hfit
      have hreached : reached (encTurn nc (nameText (l :: ls) tail) l s) = reached s := by
        unfold reached encTurn
        rw [setEreg_dnsLen, emit_dnsLen]
      rw [dnsWrAll_of_room hfit, bind_ok, regNames_cons nc _ (reached s _)]
      refine (bind_of_ok (s := encTurn nc (nameText (l :: ls) tail) l s) rfl _).trans ?_
      by_cases htext : nameText ls tail = []
      · obtain ⟨rfl, rfl⟩ := eq_nil_of_nameText_eq_nil h.tail_label_pos htext
        rw [if_pos htext, dnsWr8_eq_dnsWrAll, encTurn, dnsWrAll_setEreg, h.end_of_nil, suffixesAt, reached,
          List.filter_nil, regNames_nil]
        rfl
      · rw [if_neg htext, ih (h.turn hfit) (roomFor_turn hroom fun hnc => h.fresh hnc (_, _) List.mem_cons_self)
          (by rw [hturn, encTurn, setEreg_dnsLen, emit_dnsLen]; exact hfit) htext (by omega), hturn, hreached, encTurn,
          dnsWrAll_setEreg, setEreg_ereg, Res.setEreg_setEreg]
    · rw [dnsWrAll_of_no_room hpos (not_le.mp hfit), reached_of_no_room (not_le.mp hfit)]
      rfl

/-! ### What a name written without a fault looks like -/

/-- A label that is written is a good one. -/
theorem encLabel_eq_ok {l : List Byte} {s t : State} (hdot : dot ∉ l) (h : encLabel l s = .ok () t) :
    encodableLabel l ∧ s.dnsPos.toNat + (labelItem l).length ≤ s.dnsLen.toNat ∧ t = emit (labelItem l) s := by
  by_cases hzero : l.length = 0
  · rw [List.eq_nil_of_length_eq_zero hzero, encLabel_of_empty] at h
    cases h
  by_cases hlong : 63 < l.length
  · rw [encLabel_of_long hlong] at h
    cases h
  rw [encLabel_of_length (by omega) (by omega)] at h
  obtain ⟨hroom, ht⟩ := dnsWrAll_eq_ok (List.cons_ne_nil _ _) h
  exact ⟨⟨by omega, by omega, hdot⟩, hroom, ht⟩

theorem encPointer_eq_ok {off : Word} {s t : State} (h : encPointer off s = .ok () t) :
    off.toNat ≤ 0x3FFF ∧ s.dnsPos.toNat + 2 ≤ s.dnsLen.toNat ∧ t = emit (pointerBytes off) s := by
  by_cases hoff : off.toNat ≤ 0x3FFF
  · rw [encPointer_of_le hoff] at h
    exact ⟨hoff, dnsWrAll_eq_ok (List.cons_ne_nil _ _) h⟩
  · rw [encPointer_of_gt (not_le.mp hoff)] at h
    cases h

/-- `t` is `s` with the name that `ls` and `tail` make written as `wireName ls e` and its suffixes registered. -/
structure Written (nc : Bool) (s t : State) (ls : List (List Byte)) (e : NameEnd) (tail : List Byte) : Prop where
  encodable : EncodableName nc s ls e tail
  room : s.dnsPos.toNat + (wireName ls e).length ≤ s.dnsLen.toNat
  eq : t = (emit (wireName ls e) s).setEreg (regNames nc (suffixesAt s.dnsPos.toNat tail ls) s.ereg)

/-- A label written before a name that is written makes a longer name that is written. -/
theorem Written.cons {nc : Bool} {s t : State} {l : List Byte} {ls : List (List Byte)} {e : NameEnd} {tail : List Byte}
    (hl : encodableLabel l) (hnew : nc = false → mapGet (nameText (l :: ls) tail) s.ereg = none)
    (hroom : s.dnsPos.toNat + (labelItem l).length ≤ s.dnsLen.toNat)
    (h : Written nc (encTurn nc (nameText (l :: ls) tail) l s) t ls e tail) : Written nc s t (l :: ls) e tail := by
  have hpos : (encTurn nc (nameText (l :: ls) tail) l s).dnsPos.toNat = s.dnsPos.toNat + (labelItem l).length :=
    dnsPos_emit hroom
  have hlt := nameText_length_lt_cons hl.1 ls tail
  refine ⟨⟨fun l' hl' => ?_, ?_, fun hnc p hp => ?_⟩, ?_, ?_⟩
  · rcases List.mem_cons.mp hl' with rfl | hl'
    · exact hl
    · exact h.encodable.labels l' hl'
  · have hending := h.encodable.ending
    have hle := tail_length_le_nameText tail ls
    cases e with
    | terminator => exact hending
    | pointer off =>
      unfold PointsTo at hending ⊢
      rwa [mapGet_encTurn_of_shorter (hle.trans_lt hlt)] at hending
  · rw [suffixesAt_cons] at hp
    rcases List.mem_cons.mp hp with rfl | hp
    · exact hnew hnc
    · have hle := (length_of_mem_suffixesAt h.encodable.label_pos hp).1
      rw [← mapGet_encTurn_of_shorter (nc := nc) (l := l) (s := s) (hle.trans_lt hlt)]
      exact h.encodable.fresh hnc p (hpos.symm ▸ hp)
  · have hrest := h.room
    rw [hpos, encTurn, setEreg_dnsLen, emit_dnsLen] at hrest
    rw [wireName_cons, List.length_append, ← Nat.add_assoc]
    exact hrest
  · rw [h.eq, hpos, encTurn, emit_setEreg, wireName_cons, emit_append hroom, suffixesAt_cons,
      regNames_cons nc _ (suffixesAt _ _ _)]
    rfl

/-- A lone terminator written is the end of a name. -/
theorem written_terminator {nc : Bool} {s t : State} (h : dnsWr8 0x00#8 s = .ok () t) :
    Written nc s t [] .terminator [] := by
  rw [dnsWr8_eq_dnsWrAll] at h
  obtain ⟨hroom, rfl⟩ := dnsWrAll_eq_ok (List.cons_ne_nil _ _) h
  refine ⟨⟨nofun, rfl, nofun⟩, hroom, ?_⟩
  rw [suffixesAt, regNames_nil, ← emit_setEreg]
  rfl

/-- A pointer written is the end of a name whose rest is registered. -/
theorem written_pointer {s t : State} {rem : List Byte} {off : Word} (hne : rem ≠ []) (hreg : mapGet rem s.ereg = some off)
    (h : encPointer off s = .ok () t) : Written false s t [] (.pointer off) rem := by
  obtain ⟨hoff, hroom, rfl⟩ := encPointer_eq_ok h
  refine ⟨⟨nofun, ⟨rfl, hne, hoff, hreg⟩, nofun⟩, hroom, ?_⟩
  rw [suffixesAt, regNames_nil, ← emit_setEreg]
  rfl

/-- What the loop registers before the first label of a suffix, if it registers anything. -/
theorem encLookup_outcomes (nc : Bool) (rem : List Byte) (s : State) :
    (nc = false ∧ ∃ off, mapGet rem s.ereg = some off ∧ encLookup nc rem s = .ok (some off) s) ∨
    ((nc = false → mapGet rem s.ereg = none) ∧
      encLookup nc rem s = .ok none (s.setEreg (regNames nc [(s.dnsPos.toNat, rem)] s.ereg))) ∨
    (nc = false ∧ mapGet rem s.ereg = none ∧ s.params.regCap = some s.ereg.length ∧
      encLookup nc rem s = .raise .dnsRegFull s.dnsPos s) := by
  rcases encLookup_cases nc rem s with ⟨rfl, e⟩ | h | ⟨rfl, hnone, hcap, _⟩ | h
  · exact .inr (.inl ⟨nofun, e⟩)
  · exact .inl h
  · exact .inr (.inl ⟨fun _ => hnone, encLookup_of_new fun _ => ⟨hnone, hcap⟩⟩)
  · exact .inr (.inr h)

/-- Without a fault the loop has written labels and an end, and registered every suffix before it. -/
theorem encSuffix_eq_ok {nc : Bool} {fuel : Nat} {rem : List Byte} {s t : State} (hne : rem ≠ [])
    (h : encSuffix nc fuel rem s = .ok () t) :
    ∃ ls e tail, Written nc s t ls e tail ∧ rem = nameText ls tail := by
  induction fuel generalizing rem s with
  | zero => cases h
  | succ fuel ih =>
    rcases encLookup_outcomes nc rem s with ⟨rfl, off, hreg, hlook⟩ | ⟨hnew, hlook⟩ | ⟨_, _, _, hlook⟩
    · rw [encSuffix_of_found hlook] at h
      exact ⟨[], .pointer off, rem, written_pointer hne hreg h, (nameText_nil rem).symm⟩
    · have hdot := dot_not_mem_firstLabel rem
      have hcases := firstLabel_cases rem
      generalize firstLabel rem = l at hdot hcases
      rcases hcases with rfl | ⟨rest, rfl⟩
      · rw [encSuffix_last_label hdot hlook] at h
        obtain ⟨⟨⟩, u, hu, h⟩ := bind_eq_ok h
        obtain ⟨hl, hroom, rfl⟩ := encLabel_eq_ok hdot hu
        rw [emit_setEreg] at h
        have htext : nameText [rem] [] = rem := by
          rw [nameText_cons, dotted, if_pos rfl, List.append_nil]
        exact ⟨[rem], .terminator, [], .cons hl (htext.symm ▸ hnew) hroom (htext.symm ▸ written_terminator h), htext.symm⟩
      by_cases hrest : rest = []
      · subst hrest
        rw [encSuffix_trailing_dot hdot hlook] at h
        obtain ⟨_, _, _, h⟩ := bind_eq_ok h
        cases h
      · rw [encSuffix_more_labels hdot hrest hlook] at h
        obtain ⟨⟨⟩, u, hu, h⟩ := bind_eq_ok h
        obtain ⟨hl, hroom, rfl⟩ := encLabel_eq_ok hdot hu
        rw [emit_setEreg] at h
        obtain ⟨ls, e, tail, hwritten, rfl⟩ := ih hrest h
        have htext : l ++ dot :: nameText ls tail = nameText (l :: ls) tail := by
          rcases dotted_cases tail ls with ⟨rfl, rfl, _⟩ | ⟨_, hdotted⟩
          · exact absurd rfl hrest
          · rw [nameText_cons, hdotted]
        rw [htext] at hnew hwritten ⊢
        exact ⟨l :: ls, e, tail, .cons hl hnew hroom hwritten, rfl⟩
    · rw [encSuffix, hlook] at h
      cases h

end Sys2Proof.Machine

/-! PROOF. The statements about `DNS.ENC` (43_dns_name.md R193, R201, R206): names that are written, faults before the first
byte and part-way, the frame, and that compression never lengthens a name. -/

namespace Sys2Proof.Machine

open Sys2Proof Sys2Proof.Claims

/-! ### The command -/

theorem exec_dnsEnc (nc : Bool) (s : State) : exec (.dnsEnc nc) s = finish (encode (.dnsEnc nc)) (dnsEncode nc s) := rfl

theorem exec_dnsEnc_of_raise {nc : Bool} {s u : State} {c : ErrCode} {pos : Word} (h : dnsEncode nc s = .raise c pos u)
    (hrun : u.fault = false) :
    exec (.dnsEnc nc) s = .next (faulted u (errCodeByte c) pos (encode (.dnsEnc nc))) := by
  rw [exec_dnsEnc, h, finish_raise, takeFault_eq_faulted hrun]

theorem currentName_length (s : State) : (currentName s).length = s.nameLen.toNat := nameSlice_length s 0 _

theorem dnsEncode_root {nc : Bool} {s : State} (hw : windowFits s) (hzero : s.nameLen = 0#32) :
    dnsEncode nc s = dnsWr8 0x00#8 s := by
  have hmax : ¬ s.params.nameMax < s.nameLen.toNat := by
    rw [hzero]
    exact Nat.not_lt_zero _
  rw [dnsEncode, dnsWindow_of_fits hw, bind_ok, if_neg hmax, if_pos hzero]

theorem dnsEncode_of_given {nc : Bool} {s : State} (h : nameGiven s) :
    dnsEncode nc s = encSuffix nc s.nameLen.toNat (currentName s) s := by
  obtain ⟨hw, hpos, hmax⟩ := h
  have hzero : s.nameLen ≠ 0#32 := by
    intro e
    rw [e] at hpos
    exact absurd hpos (Nat.lt_irrefl 0)
  rw [dnsEncode, dnsWindow_of_fits hw, bind_ok, if_neg (not_lt.mpr hmax), if_neg hzero]

theorem currentName_ne_nil {s : State} (h : nameGiven s) : currentName s ≠ [] :=
  List.ne_nil_of_length_pos (by rw [currentName_length]; exact h.2.1)

/-- A name in `NAME` is the root name, or it is given to the loop. -/
theorem root_or_given {s : State} (hw : windowFits s) (hmax : s.nameLen.toNat ≤ s.params.nameMax) :
    s.nameLen = 0#32 ∨ nameGiven s := by
  by_cases h : s.nameLen = 0#32
  · exact .inl h
  · exact .inr ⟨hw, Nat.pos_of_ne_zero fun e => h (BitVec.eq_of_toNat_eq e), hmax⟩

theorem currentName_of_root {s : State} (h : s.nameLen = 0#32) : currentName s = [] :=
  List.eq_nil_of_length_eq_zero (by rw [currentName_length, h]; rfl)

/-- `DNS.ENC` on a name of good labels, with or without room for all of it. -/
theorem dnsEncode_of_encodable {nc : Bool} {s : State} {ls : List (List Byte)} {e : NameEnd} {tail : List Byte}
    (hw : windowFits s) (hmax : s.nameLen.toNat ≤ s.params.nameMax) (hname : currentName s = nameText ls tail)
    (h : EncodableName nc s ls e tail) (hroom : nc = false → roomFor s s.ereg.length ls.length)
    (hpos : s.dnsPos.toNat ≤ s.dnsLen.toNat) :
    dnsEncode nc s =
      (dnsWrAll (wireName ls e) s).setEreg (regNames nc (reached s (suffixesAt s.dnsPos.toNat tail ls)) s.ereg) := by
  rcases root_or_given hw hmax with hzero | hgiven
  · rw [currentName_of_root hzero] at hname
    obtain ⟨rfl, rfl⟩ := eq_nil_of_nameText_eq_nil h.label_pos hname.symm
    rw [dnsEncode_root hw hzero, h.end_of_nil, dnsWr8_eq_dnsWrAll, suffixesAt, reached, List.filter_nil, regNames_nil,
      dnsWrAll_setEreg_self]
    rfl
  · have hlen : (nameText ls tail).length ≤ s.nameLen.toNat := by rw [← hname, currentName_length]
    rw [dnsEncode_of_given hgiven, hname,
      encSuffix_of_encodable h hroom hpos (hname ▸ currentName_ne_nil hgiven) hlen]

/-- The first turn of the loop. -/
theorem dnsEncode_eq_encSuffix_succ (nc : Bool) {s : State} (h : nameGiven s) :
    ∃ fuel, dnsEncode nc s = encSuffix nc (fuel + 1) (currentName s) s := by
  obtain ⟨fuel, hfuel⟩ := Nat.exists_eq_add_of_lt h.2.1
  exact ⟨fuel, by rw [dnsEncode_of_given h, hfuel, Nat.zero_add]⟩

/-- A name registered whole is a pointer. -/
theorem dnsEncode_of_known {s : State} {off : Word} (h : nameGiven s) (hreg : mapGet (currentName s) s.ereg = some off) :
    dnsEncode false s = encPointer off s := by
  obtain ⟨fuel, hfuel⟩ := dnsEncode_eq_encSuffix_succ false h
  rw [hfuel, encSuffix_of_found (encLookup_of_known hreg)]

/-- A fault of the first label comes after its suffix has been registered. -/
theorem dnsEncode_of_label_raise {nc : Bool} {s t : State} {c : ErrCode} {pos : Word} (h : nameGiven s)
    (hlook : encLookup nc (currentName s) s = .ok none t)
    (hraise : encLabel (firstLabel (currentName s)) t = .raise c pos t) : dnsEncode nc s = .raise c pos t := by
  obtain ⟨fuel, hfuel⟩ := dnsEncode_eq_encSuffix_succ nc h
  rw [hfuel, encSuffix_of_new hlook, hraise, bind_raise]

/-- A name with too little room below `DNS_LEN`. -/
theorem exec_dnsEnc_of_no_room {nc : Bool} {s : State} {ls : List (List Byte)} {e : NameEnd} {tail : List Byte}
    (hrun : s.fault = false) (hw : windowFits s) (hmax : s.nameLen.toNat ≤ s.params.nameMax)
    (hname : currentName s = nameText ls tail) (h : EncodableName nc s ls e tail)
    (hcap : nc = false → roomFor s s.ereg.length ls.length) (hpos : s.dnsPos.toNat ≤ s.dnsLen.toNat)
    (hroom : s.dnsLen.toNat < s.dnsPos.toNat + (wireName ls e).length) :
    exec (.dnsEnc nc) s =
      .next (faulted
        ((emit ((wireName ls e).take (s.dnsLen.toNat - s.dnsPos.toNat)) s).setEreg
          (regNames nc (reached s (suffixesAt s.dnsPos.toNat tail ls)) s.ereg))
        0x26#8 s.dnsLen (encode (.dnsEnc nc))) := by
  have hexec := dnsEncode_of_encodable hw hmax hname h hcap hpos
  rw [dnsWrAll_of_no_room hpos hroom] at hexec
  exact exec_dnsEnc_of_raise hexec (by rw [setEreg_fault, emit_fault]; exact hrun)

/-- Without a fault `DNS.ENC` has written the whole name in `NAME`. -/
theorem dnsEncode_eq_ok {nc : Bool} {s t : State} (h : dnsEncode nc s = .ok () t) :
    ∃ ls e tail, Written nc s t ls e tail ∧ currentName s = nameText ls tail ∧ windowFits s ∧
      s.nameLen.toNat ≤ s.params.nameMax := by
  have hw : windowFits s := by
    by_contra hw
    rw [dnsEncode, dnsWindow_of_not_fits hw, bind_raise] at h
    cases h
  have hmax : s.nameLen.toNat ≤ s.params.nameMax := by
    by_contra hmax
    rw [dnsEncode, dnsWindow_of_fits hw, bind_ok, if_pos (not_le.mp hmax)] at h
    cases h
  rcases root_or_given hw hmax with hzero | hgiven
  · rw [dnsEncode_root hw hzero] at h
    exact ⟨[], .terminator, [], written_terminator h, (currentName_of_root hzero).trans (nameText_nil []).symm, hw, hmax⟩
  · rw [dnsEncode_of_given hgiven] at h
    obtain ⟨ls, e, tail, hwritten, hname⟩ := encSuffix_eq_ok (currentName_ne_nil hgiven) h
    exact ⟨ls, e, tail, hwritten, hname, hw, hmax⟩

/-- A command that leaves `FAULT` 0 has ended normally. -/
theorem finish_eq_ok {word : Word} {r : Res Unit} {t : State} (h : finish word r = .next t) (hrun : t.fault = false) :
    r = .ok () t := by
  rcases finish_cases word r with ⟨u, rfl, e⟩ | ⟨c, pos, u, rfl, e⟩ <;> rw [e] at h <;> cases h
  · rfl
  · rw [takeFault_fault] at hrun
    cases hrun

/-! ### A bad label -/

theorem firstLabel_cons_of_ne {c : Byte} (h : c ≠ dot) (rem : List Byte) :
    firstLabel (c :: rem) = c :: firstLabel rem := List.takeWhile_cons_of_pos (by simpa using h)

/-- The first label is longer than `n` bytes when no separator is among the first `n + 1` bytes of the name. -/
theorem lt_firstLabel_length_iff (n : Nat) (rem : List Byte) :
    n < (firstLabel rem).length ↔ n < rem.length ∧ dot ∉ rem.take (n + 1) := by
  induction rem generalizing n with
  | nil => exact iff_of_false (Nat.not_lt_zero n) fun h => Nat.not_lt_zero n h.1
  | cons c rem ih =>
    by_cases hc : c = dot
    · subst hc
      refine iff_of_false (Nat.not_lt_zero n) fun h => h.2 ?_
      rw [List.take_succ_cons]
      exact List.mem_cons_self
    · rw [firstLabel_cons_of_ne hc, List.length_cons, List.length_cons, List.take_succ_cons, List.mem_cons, not_or]
      cases n with
      | zero => simp [Ne.symm hc]
      | succ n => rw [Nat.succ_lt_succ_iff, Nat.succ_lt_succ_iff, ih, and_iff_right (Ne.symm hc)]

theorem firstLabel_of_head {bad : List Byte} (h : bad = [] ∨ bad.head? = some dot) : firstLabel bad = [] := by
  cases bad with
  | nil => rfl
  | cons c bad =>
    obtain rfl : c = dot := by simpa using h
    rfl

/-- With `NC = 1`, good labels and then a bad one: the good labels are written and the fault stands after them. -/
theorem encSuffix_of_bad_label {ls : List (List Byte)} {bad : List Byte} {c : ErrCode} {s : State} {fuel : Nat}
    (hne : ls ≠ []) (hls : ∀ l ∈ ls, encodableLabel l)
    (hbad : ∀ t, encLabel (firstLabel bad) t = .raise c t.dnsPos t)
    (hroom : s.dnsPos.toNat + (labelItems ls).length ≤ s.dnsLen.toNat)
    (hfuel : (joinLabels ls ++ dot :: bad).length ≤ fuel) :
    encSuffix true fuel (joinLabels ls ++ dot :: bad) s =
      .raise c (emit (labelItems ls) s).dnsPos (emit (labelItems ls) s) := by
  induction ls generalizing s fuel with
  | nil => exact absurd rfl hne
  | cons l ls ih =>
    obtain ⟨hpos, hle, hdot⟩ := hls l List.mem_cons_self
    rw [labelItems_cons, List.length_append] at hroom
    have hitem : s.dnsPos.toNat + (labelItem l).length ≤ s.dnsLen.toNat := by omega
    have hlabel : encLabel l s = .ok () (emit (labelItem l) s) := by
      rw [encLabel_of_length hpos hle, dnsWrAll_of_room hitem]
    rw [List.length_append, List.length_cons] at hfuel
    obtain ⟨fuel, rfl⟩ := Nat.exists_eq_add_of_lt (show 0 < fuel by omega)
    rw [Nat.zero_add, labelItems_cons, emit_append hitem]
    cases ls with
    | nil =>
      rw [joinLabels] at hfuel ⊢
      by_cases hnil : bad = []
      · subst hnil
        have hcode := (encLabel_of_empty s).symm.trans (hbad s)
        injection hcode with hcode
        rw [encSuffix_trailing_dot hdot rfl, hlabel, bind_ok, ← hcode, labelItems_nil, emit_nil]
      · have := List.length_pos_of_ne_nil hnil
        obtain ⟨fuel, rfl⟩ := Nat.exists_eq_add_of_lt (show 0 < fuel by omega)
        rw [encSuffix_more_labels hdot hnil rfl, hlabel, bind_ok, Nat.zero_add, encSuffix_of_new rfl, hbad, bind_raise,
          labelItems_nil, emit_nil]
    | cons l' ls =>
      rw [joinLabels, List.length_append, List.length_cons] at hfuel
      rw [joinLabels, List.append_assoc, List.cons_append,
        encSuffix_more_labels hdot (List.append_ne_nil_of_right_ne_nil _ (List.cons_ne_nil _ _)) rfl, hlabel, bind_ok,
        ih (List.cons_ne_nil _ _) (fun l'' hl'' => hls l'' (List.mem_cons_of_mem _ hl''))
          (by rw [dnsPos_emit hitem, emit_dnsLen]; omega)
          (by rw [List.length_append, List.length_cons]; omega)]

/-- The two kinds of bad label: empty, or with no separator among its first 64 bytes. -/
theorem exec_dnsEnc_of_bad_label {s : State} {ls : List (List Byte)} {bad : List Byte} {code : Byte}
    (hrun : s.fault = false) (hw : windowFits s) (hne : ls ≠ []) (hls : ∀ l ∈ ls, encodableLabel l)
    (hname : currentName s = joinLabels ls ++ dot :: bad) (hmax : s.nameLen.toNat ≤ s.params.nameMax)
    (hcode : (code = 0x25#8 ∧ (bad = [] ∨ bad.head? = some dot)) ∨
      (code = 0x24#8 ∧ 63 < bad.length ∧ dot ∉ bad.take 64))
    (hroom : s.dnsPos.toNat + (labelItems ls).length ≤ s.dnsLen.toNat) :
    exec (.dnsEnc true) s =
      .next (faulted (emit (labelItems ls) s) code (emit (labelItems ls) s).dnsPos 0x42000100#32) := by
  have hlen := currentName_length s
  have hgiven : nameGiven s := ⟨hw, by rw [← hlen, hname, List.length_append, List.length_cons]; omega, hmax⟩
  obtain ⟨c, rfl, hbad⟩ : ∃ c, errCodeByte c = code ∧ ∀ t, encLabel (firstLabel bad) t = .raise c t.dnsPos t := by
    rcases hcode with ⟨rfl, hempty⟩ | ⟨rfl, hlong, hdot⟩
    · refine ⟨.dnsLabelEmpty, rfl, fun t => ?_⟩
      rw [firstLabel_of_head hempty, encLabel_of_empty]
    · exact ⟨.dnsLabelLong, rfl, encLabel_of_long ((lt_firstLabel_length_iff 63 bad).mpr ⟨hlong, hdot⟩)⟩
  have hexec := dnsEncode_of_given (nc := true) hgiven
  rw [hname, encSuffix_of_bad_label hne hls hbad hroom (by rw [← hname, hlen])] at hexec
  exact exec_dnsEnc_of_raise hexec (by rw [emit_fault]; exact hrun)

/-! ### A first label that stops the command -/

theorem encLabel_of_overrun {l : List Byte} {s : State} (hpos : 1 ≤ l.length) (hle : l.length ≤ 63)
    (h : s.dnsLen.toNat ≤ s.dnsPos.toNat) : encLabel l s = .raise .dnsOverrun s.dnsPos s := by
  rw [encLabel_of_length hpos hle, labelItem, dnsWrAll, dnsWr8_of_le h, bind_raise]

theorem encLookup_of_full {s : State} {rem : List Byte} (hnew : mapGet rem s.ereg = none)
    (hfull : s.params.regCap = some s.ereg.length) : encLookup false rem s = .raise .dnsRegFull s.dnsPos s := by
  rcases encLookup_cases false rem s with ⟨hnc, _⟩ | ⟨_, off, hoff, _⟩ | ⟨_, _, hroom, _⟩ | ⟨_, _, _, e⟩
  · cases hnc
  · rw [hnew] at hoff
    cases hoff
  · exact absurd hfull hroom
  · exact e

theorem mem_nameSlice (s : State) (c : Byte) (i n : Nat) : c ∈ nameSlice s i n ↔ ∃ k < n, nameRead s (i + k) = c := by
  simp only [List.mem_iff_getElem, nameSlice_getElem, nameSlice_length, exists_prop]

/-- How long the first label of the name in `NAME` is, byte by byte. -/
theorem lt_firstLabel_currentName_iff (s : State) (n : Nat) :
    n < (firstLabel (currentName s)).length ↔ n < s.nameLen.toNat ∧ ∀ i ≤ n, nameRead s i ≠ dot := by
  rw [lt_firstLabel_length_iff, currentName_length]
  refine and_congr_right fun hlt => ?_
  have htake : (currentName s).take (n + 1) = nameSlice s 0 (n + 1) := by
    rw [currentName, show s.nameLen.toNat = n + 1 + (s.nameLen.toNat - (n + 1)) by omega, nameSlice_add]
    exact List.take_left' (nameSlice_length s 0 (n + 1))
  simp only [htake, mem_nameSlice, Nat.zero_add, not_exists, not_and, Nat.lt_succ_iff, ne_eq]

/-- What the first label is: empty, too long, or good with no room for its length byte. -/
theorem firstLabel_raises {s : State} {code : Byte} (hgiven : nameGiven s)
    (hcode : (code = 0x25#8 ∧ firstLabelEmpty s) ∨ (code = 0x24#8 ∧ firstLabelLong s) ∨
      (code = 0x26#8 ∧ ¬ firstLabelEmpty s ∧ ¬ firstLabelLong s ∧ s.dnsLen.toNat ≤ s.dnsPos.toNat)) :
    ∃ c, errCodeByte c = code ∧ ∀ t : State, t.dnsPos = s.dnsPos → t.dnsLen = s.dnsLen →
      encLabel (firstLabel (currentName s)) t = .raise c s.dnsPos t := by
  rcases hcode with ⟨rfl, hempty⟩ | ⟨rfl, hlong⟩ | ⟨rfl, hne, hshort, hle⟩
  · have hnil : firstLabel (currentName s) = [] := by
      refine List.eq_nil_of_length_eq_zero (Nat.eq_zero_of_not_pos fun hpos => ?_)
      exact ((lt_firstLabel_currentName_iff s 0).mp hpos).2 0 le_rfl hempty
    exact ⟨.dnsLabelEmpty, rfl, fun t hpos _ => by rw [hnil, encLabel_of_empty, hpos]⟩
  · exact ⟨.dnsLabelLong, rfl, fun t hpos _ => by
      rw [encLabel_of_long ((lt_firstLabel_currentName_iff s 63).mpr hlong), hpos]⟩
  · have hlow := (lt_firstLabel_currentName_iff s 0).mpr ⟨hgiven.2.1, fun i hi => Nat.le_zero.mp hi ▸ hne⟩
    have hup := fun h => hshort ((lt_firstLabel_currentName_iff s 63).mp h)
    exact ⟨.dnsOverrun, rfl, fun t hpos hlen => by
      rw [encLabel_of_overrun hlow (not_lt.mp hup) (by rwa [hpos, hlen]), hpos]⟩

/-! ### What is written -/

/-- `s` after `DNS.ENC` has written `bs` and the encode registry has become `m`. -/
theorem emit_setEreg_eq (bs : List Byte) (m : List (List Byte × Word)) (s : State) :
    (emit bs s).setEreg m =
      { s with
        dnsPos := BitVec.ofNat 32 (s.dnsPos.toNat + bs.length), buf := ((emit bs s).setEreg m).buf, ereg := m } := by
  conv_lhs => rw [emit_eq]
  rfl

/-- The message holds at the old `DNS_POS` the bytes written, whatever else but `BUF` has changed since. -/
theorem messageHolds_of_emit {s t : State} {bs : List Byte} (hbase : t.dnsBase = s.dnsBase)
    (hbuf : t.buf = (emit bs s).buf) (hepoch : t.epoch = s.epoch) :
    messageHolds { t with dnsPos := s.dnsPos } bs :=
  (messageHolds_iff _ _).mpr ((holdsAt_emit bs s).congr (by rw [emit_dnsBase]; exact hbase)
    (bufRead_congr hbuf (by rw [emit_epoch]; exact hepoch)))

/-! ### The frame -/

/-- What `DNS.ENC` keeps from the state `s` on: `DNS_POS` has not moved back, the bytes of `BUF` outside what it passed over are
as before, and what was registered is. -/
structure Writing (s t : State) : Prop where
  dnsBase : t.dnsBase = s.dnsBase
  dnsPos_le : s.dnsPos.toNat ≤ t.dnsPos.toNat
  outside : ∀ a, a < s.dnsBase.toNat + s.dnsPos.toNat ∨ s.dnsBase.toNat + t.dnsPos.toNat ≤ a → bufRead t a = bufRead s a
  ereg : ∀ nm off, mapGet nm s.ereg = some off → mapGet nm t.ereg = some off

theorem Writing.dnsWr8 {s : State} (b : Byte) (t : State) (h : Writing s t) : Writing s (dnsWr8 b t).state := by
  by_cases hlt : t.dnsPos.toNat < t.dnsLen.toNat
  · have hpos : (emit [b] t).dnsPos.toNat = t.dnsPos.toNat + 1 := dnsPos_emit hlt
    have hle := h.dnsPos_le
    rw [dnsWr8_of_lt hlt, state_ok]
    refine ⟨by rw [emit_dnsBase, h.dnsBase], by omega, fun a ha => ?_, by rw [emit_ereg]; exact h.ereg⟩
    rw [hpos] at ha
    rw [bufRead_emit_other (by rw [h.dnsBase, List.length_singleton]; omega), h.outside a (by omega)]
  · rw [dnsWr8_of_le (not_lt.mp hlt)]
    exact h

theorem Writing.encLookup {s : State} (nc : Bool) (rem : List Byte) (t : State) (h : Writing s t) :
    Writing s (encLookup nc rem t).state := by
  rcases encLookup_outcomes nc rem t with ⟨_, _, _, e⟩ | ⟨hnew, e⟩ | ⟨_, _, _, e⟩ <;> rw [e]
  · exact h
  · refine { h with ereg := fun nm off hreg => ?_ }
    have hold := h.ereg nm off hreg
    rw [state_ok, setEreg_ereg, mapGet_regNames (List.pairwise_singleton _ _), positionOf_cons]
    cases nc with
    | true => exact hold
    | false =>
      have hne : rem ≠ nm := by
        rintro rfl
        rw [hnew rfl] at hold
        cases hold
      rw [if_neg Bool.false_ne_true, if_neg hne]
      exact hold
  · exact h

theorem Writing.dnsEncode (nc : Bool) (s : State) : Writing s (dnsEncode nc s).state :=
  dnsEncode_keeps (P := Writing s) ⟨rfl, le_rfl, fun _ _ => rfl, fun _ _ h => h⟩ (fun _ => Writing.dnsWr8)
    fun _ rem t _ _ => Writing.encLookup nc rem t

/-- `t` differs from `s` in what `DNS.ENC` may change, a fault taken or not. -/
theorem exec_dnsEnc_frame {nc : Bool} {s t : State} (ht : exec (.dnsEnc nc) s = .next t) :
    t = { s with
      dnsPos := t.dnsPos, buf := t.buf, ereg := t.ereg, fault := t.fault, errCode := t.errCode, errPos := t.errPos,
      errCmd := t.errCmd } := by
  obtain ⟨u, hfault, hunit, _⟩ := exec_frame ht
  rw [EncFrame] at hunit
  rw [hfault, hunit]

/-! ### How long a name is -/

/-- Each label takes one byte more in the message than in the name with its separator. -/
theorem dotted_length (tail : List Byte) (ls : List (List Byte)) :
    (dotted tail ls).length = (labelItems ls).length + (dotted tail []).length := by
  induction ls with
  | nil => exact (Nat.zero_add _).symm
  | cons l ls ih =>
    rw [dotted_cons, nameText_cons, labelItems_cons, List.length_cons, List.length_append, List.length_append, ih,
      labelItem_length]
    omega

/-- The terminator or the pointer takes no more than the text it stands for would, with the terminator. -/
theorem endItem_length_le {nc : Bool} {m : List (List Byte × Word)} {tail : List Byte} {e : NameEnd}
    (h : PointsTo nc m tail e) : (endItem e).length ≤ (dotted tail []).length + 1 := by
  cases e with
  | terminator => exact Nat.le_add_left 1 _
  | pointer off =>
    have := List.length_pos_of_ne_nil h.2.1
    rw [dotted, if_neg h.2.1, List.length_cons, endItem, pointerBytes_length]
    omega

theorem dotted_nil_nil : dotted [] [] = [] := if_pos rfl

/-- The same name with a pointer is never longer in the message than with all of its labels and a terminator. -/
theorem wireName_length_le {nc : Bool} {m : List (List Byte × Word)} {ls ls' : List (List Byte)} {tail : List Byte}
    {e : NameEnd} (h : PointsTo nc m tail e) (htext : nameText ls tail = nameText ls' [])
    (hls : ∀ l ∈ ls, 1 ≤ l.length) (hls' : ∀ l ∈ ls', 1 ≤ l.length) :
    (wireName ls e).length ≤ (wireName ls' .terminator).length := by
  have hend := endItem_length_le h
  have hlen := dotted_length tail ls
  have hlen' := dotted_length [] ls'
  have hdotted : (dotted tail ls).length = (dotted [] ls').length := by
    rcases dotted_cases tail ls with ⟨rfl, rfl, _⟩ | ⟨hne, hmore⟩
    · rw [(eq_nil_of_nameText_eq_nil hls' htext.symm).1]
    · rcases dotted_cases [] ls' with ⟨rfl, _, _⟩ | ⟨_, hmore'⟩
      · obtain ⟨hnil, hnil'⟩ := eq_nil_of_nameText_eq_nil hls htext
        exact absurd hnil (hne.resolve_right (absurd hnil'))
      · rw [hmore, hmore', htext]
  rw [dotted_nil_nil, List.length_nil] at hlen'
  rw [wireName_length, wireName_length, endItem, List.length_singleton]
  omega

end Sys2Proof.Machine

namespace Sys2Proof.Claims

open Sys2Proof Sys2Proof.Machine Sys2Proof.Safety

/-- Settles O52: there is room for every byte, so that every suffix is reached. -/
theorem encodeWritesName : Obligations.EncodeWritesName := by
  intro s nc ls e tail hinv hw hne hls hname hmax hend hreg hroom
  have henc : EncodableName nc s ls e tail := ⟨hls, by cases e <;> exact hend, fun hnc => (hreg hnc).1⟩
  have hpos : s.dnsPos.toNat ≤ s.dnsLen.toNat := by omega
  have hlabels : s.dnsPos.toNat + (labelItems ls).length ≤ s.dnsLen.toNat := by
    rw [wireName_length] at hroom
    omega
  have hrun := dnsEncode_of_encodable hw hmax hname henc (fun hnc => (hreg hnc).2) hpos
  rw [dnsWrAll_of_room hroom, reached_of_room hlabels] at hrun
  refine ⟨(emit (wireName ls e) s).setEreg (regNames nc (suffixesAt s.dnsPos.toNat tail ls) s.ereg), ?_,
    emit_setEreg_eq _ _ s, messageHolds_of_emit ?_ rfl ?_, fun a ha => bufRead_emit_other ha,
    mapGet_regNames (distinctNames_suffixesAt henc.label_pos _ _) _⟩
  · rw [exec_dnsEnc, hrun]
    rfl
  · exact emit_dnsBase _ s
  · exact emit_epoch _ s

/-- Settles O54: a name of good labels is written as far as there is room; before a bad label the good ones are. -/
theorem encodeStopsPartWay : Obligations.EncodeStopsPartWay := by
  constructor
  · intro s nc ls e tail hinv hrun hw hne hls hname hmax hend hreg hpos hroom
    have henc : EncodableName nc s ls e tail := ⟨hls, by cases e <;> exact hend, fun hnc => (hreg hnc).1⟩
    have hexec := exec_dnsEnc_of_no_room hrun hw hmax hname henc (fun hnc => (hreg hnc).2) hpos hroom
    have hlen : ((wireName ls e).take (s.dnsLen.toNat - s.dnsPos.toNat)).length = s.dnsLen.toNat - s.dnsPos.toNat := by
      rw [List.length_take]
      omega
    generalize (wireName ls e).take (s.dnsLen.toNat - s.dnsPos.toNat) = bs at hexec hlen
    have hframe := emit_setEreg_eq bs (regNames nc (reached s (suffixesAt s.dnsPos.toNat tail ls)) s.ereg) s
    rw [hlen, Nat.add_sub_cancel' hpos, BitVec.ofNat_toNat, BitVec.setWidth_eq] at hframe
    refine ⟨_, hexec, ?_, messageHolds_of_emit ?_ rfl ?_, fun a ha => bufRead_emit_other ?_,
      mapGet_regNames ((distinctNames_suffixesAt henc.label_pos _ _).filter _) _⟩
    · conv_lhs => rw [hframe]
      rfl
    · exact emit_dnsBase bs s
    · exact emit_epoch bs s
    · omega
  · intro s ls bad code _ hrun hw hne hls hname hmax hcode hroom
    refine ⟨_, exec_dnsEnc_of_bad_label hrun hw hne hls hname hmax hcode hroom, ?_, messageHolds_of_emit ?_ rfl ?_,
      fun a ha => bufRead_emit_other ha⟩
    · conv_lhs => rw [emit_eq]
      rfl
    · exact emit_dnsBase _ s
    · exact emit_epoch _ s

/-- Settles O51: a name of no label, written as a terminator or as a pointer. -/
theorem encodeRootAndKnownName : Obligations.EncodeRootAndKnownName := by
  refine fun s _ hw => ⟨fun nc hzero hlt => ?_, fun off hlen hmax hreg hoff hlt => ?_⟩
  · refine ⟨emit [0x00#8] s, ?_, ?_, ((holdsAt_cons _ _ _ _).mp (holdsAt_emit [0x00#8] s)).1,
      fun a ha => bufRead_emit_other ?_⟩
    · rw [exec_dnsEnc, dnsEncode_root hw hzero, dnsWr8_of_lt hlt, finish_ok]
    · conv_lhs => rw [emit_eq]
      rw [dnsPos_add]
      rfl
    · rw [List.length_singleton]
      omega
  · have hbytes := holdsAt_emit (pointerBytes off) s
    rw [pointerBytes, holdsAt_cons, holdsAt_cons] at hbytes
    obtain ⟨hfirst, hsecond, _⟩ := hbytes
    refine ⟨emit (pointerBytes off) s, ?_, ?_, hfirst, hsecond, fun a hne hne' => bufRead_emit_other ?_⟩
    · rw [exec_dnsEnc, dnsEncode_of_known ⟨hw, hlen, hmax⟩ hreg, encPointer_of_le hoff,
        dnsWrAll_of_room (bs := pointerBytes off) hlt, finish_ok]
    · conv_lhs => rw [emit_eq]
      rw [dnsPos_add]
      rfl
    · rw [pointerBytes_length]
      omega

/-- Settles O53: every fault before the first byte, in the order of the tests; a new name is registered before its first label
is looked at. -/
theorem encodeFaultsAtOnce : Obligations.EncodeFaultsAtOnce := by
  intro s _ hrun
  refine ⟨fun nc => ⟨fun hw => ?_, fun hw hmax => ?_, fun hw hzero hle => ?_⟩, fun hgiven off hreg => ⟨fun hoff => ?_,
    fun hoff hle => ?_⟩, fun hgiven hnew hfull => ?_, fun hgiven code hcode => ?_⟩
  · refine exec_dnsEnc_of_raise (c := .bounds) ?_ hrun
    rw [dnsEncode, dnsWindow_of_not_fits hw, bind_raise]
  · refine exec_dnsEnc_of_raise (c := .dnsNameOvf) ?_ hrun
    rw [dnsEncode, dnsWindow_of_fits hw, bind_ok, if_pos hmax]
  · refine exec_dnsEnc_of_raise (c := .dnsOverrun) ?_ hrun
    rw [dnsEncode_root hw hzero, dnsWr8_of_le hle]
  · refine exec_dnsEnc_of_raise (c := .dnsPtrRange) ?_ hrun
    rw [dnsEncode_of_known hgiven hreg, encPointer_of_gt hoff]
  · refine exec_dnsEnc_of_raise (c := .dnsOverrun) ?_ hrun
    rw [dnsEncode_of_known hgiven hreg, encPointer_of_le hoff, pointerBytes, dnsWrAll, dnsWr8_of_le hle, bind_raise]
  · refine exec_dnsEnc_of_raise (c := .dnsRegFull) ?_ hrun
    obtain ⟨fuel, hfuel⟩ := dnsEncode_eq_encSuffix_succ false hgiven
    rw [hfuel, encSuffix, encLookup_of_full hnew hfull, bind_raise]
  · obtain ⟨c, rfl, hraise⟩ := firstLabel_raises hgiven hcode
    refine ⟨?_, fun hnew => ⟨mapPut nameLt (currentName s) s.dnsPos s.ereg, fun nm => mapGet_mapPut _ _ _ _ _, ?_⟩⟩
    · exact exec_dnsEnc_of_raise (dnsEncode_of_label_raise hgiven rfl (hraise s rfl rfl)) hrun
    · have hlook := encLookup_of_new (nc := false) (s := s) fun _ => hnew
      rw [regNames_single, BitVec.ofNat_toNat, BitVec.setWidth_eq] at hlook
      exact exec_dnsEnc_of_raise (dnsEncode_of_label_raise hgiven hlook (hraise _ rfl rfl)) hrun

/-- Settles O55: each byte written and each entry put keeps `Writing`, and a fault taken changes the fault registers only. -/
theorem encodeFrame : Obligations.EncodeFrame := by
  intro s t nc _ ht
  have hwrite := Writing.dnsEncode nc s
  have hfault : FaultFrame (dnsEncode nc s).state t := finish_faultFrame ht
  rw [FaultFrame] at hfault
  have hpos : t.dnsPos = (dnsEncode nc s).state.dnsPos := by rw [hfault]
  have hbase : t.dnsBase = s.dnsBase := by rw [hfault]; exact hwrite.dnsBase
  have hereg : t.ereg = (dnsEncode nc s).state.ereg := by rw [hfault]
  have hbuf : ∀ a, bufRead t a = bufRead (dnsEncode nc s).state a := bufRead_congr (by rw [hfault]) (by rw [hfault])
  refine ⟨hpos ▸ hwrite.dnsPos_le, fun a ha => ?_, ?_, hereg ▸ hwrite.ereg, exec_dnsEnc_frame ht⟩
  · rw [hbuf]
    rw [hbase, hpos] at ha
    exact hwrite.outside a ha
  · rintro rfl
    rw [hereg, dnsEncode_nc_ereg]

/-- Settles O57: both commands write the same name, the one with all of its labels, the other perhaps with a pointer. -/
theorem compressionNeverLonger : Obligations.CompressionNeverLonger := by
  intro s t u _ _ ht htrun hu hurun
  obtain ⟨ls, e, tail, hwritten, hname, _, _⟩ := dnsEncode_eq_ok (finish_eq_ok ht htrun)
  obtain ⟨ls', e', tail', hwritten', hname', _, _⟩ := dnsEncode_eq_ok (finish_eq_ok hu hurun)
  have hend := hwritten'.encodable.ending
  cases e' with
  | pointer off => exact absurd hend.1 (Bool.noConfusion)
  | terminator =>
    obtain rfl : tail' = [] := hend
    rw [hwritten.eq, hwritten'.eq, setEreg_dnsPos, setEreg_dnsPos, dnsPos_emit hwritten.room, dnsPos_emit hwritten'.room]
    exact Nat.add_le_add_left (wireName_length_le hwritten.encodable.ending (hname.symm.trans hname')
      hwritten.encodable.label_pos hwritten'.encodable.label_pos) _

end Sys2Proof.Claims

/-! PROOF. What `DNS.ENC` writes `DNS.DEC` reads back (43_dns_name.md R205): the bytes written are those of a name that the
decoder reads, and each suffix is registered for both at the same position. -/

namespace Sys2Proof.Machine

open Sys2Proof Sys2Proof.Claims

/-! ### The room that the decoder needs -/

theorem length_le_count_dotted (tail : List Byte) (ls : List (List Byte)) : ls.length ≤ (dotted tail ls).count dot := by
  induction ls with
  | nil => exact Nat.zero_le _
  | cons l ls ih =>
    rw [dotted_cons, nameText_cons, List.count_cons_self, List.count_append, List.length_cons]
    omega

/-- A name has at most one label more than it has separators. -/
theorem length_le_dotCount (tail : List Byte) (ls : List (List Byte)) : ls.length ≤ dotCount (nameText ls tail) + 1 := by
  have hle := length_le_count_dotted tail ls
  rcases dotted_cases tail ls with ⟨rfl, _, _⟩ | ⟨_, hdotted⟩
  · exact Nat.zero_le _
  · rwa [hdotted, List.count_cons_self] at hle

theorem newKeys_le_length (s : State) (sfx : List (Nat × List Byte)) : newKeys s sfx ≤ sfx.length :=
  List.length_filter_le _ _

theorem labelItems_length_lt (ls : List (List Byte)) (e : NameEnd) : (labelItems ls).length < (wireName ls e).length := by
  have := endItem_length_pos e
  rw [wireName_length]
  omega

/-! ### The registries after both commands -/

section

variable {nc : Bool} {s t u : State} {ls : List (List Byte)} {e : NameEnd} {tail : List Byte}

/-- A label that the encoder writes is one that the decoder reads. -/
theorem Written.labels_le (h : Written nc s t ls e tail) : ∀ l ∈ ls, 1 ≤ l.length ∧ l.length ≤ 191 := fun l hl =>
  let ⟨hpos, hle, _⟩ := h.encodable.labels l hl
  ⟨hpos, hle.trans (by decide)⟩

/-- The pointer that the encoder writes is found by the decoder. -/
theorem Written.endsIn (h : Written nc s t ls e tail) (hm : mirrored s) : EndsIn s.dreg tail e := by
  have hending := h.encodable.ending
  cases e with
  | terminator => exact hending
  | pointer off =>
    obtain ⟨_, _, hoff, hreg⟩ := hending
    exact ⟨hoff, hm tail off hreg⟩

/-- What is registered for encoding after a name has been written: one of its suffixes at its position, or what was registered
before. -/
theorem Written.mapGet_ereg (h : Written nc s t ls e tail) {nm : List Byte} {off : Word}
    (hreg : mapGet nm t.ereg = some off) :
    positionOf nm (suffixesAt s.dnsPos.toNat tail ls) = some off ∨ mapGet nm s.ereg = some off := by
  rw [h.eq, setEreg_ereg, mapGet_regNames (distinctNames_suffixesAt h.encodable.label_pos _ _)] at hreg
  split at hreg
  · exact .inr hreg
  · rcases Option.or_eq_some_iff.mp hreg with hreg | ⟨_, hreg⟩
    · exact .inl hreg
    · exact .inr hreg

theorem Written.suffix_at (h : Written nc s t ls e tail) {nm : List Byte} {off : Word}
    (hpos : positionOf nm (suffixesAt s.dnsPos.toNat tail ls) = some off) :
    suffixAt off (suffixesAt s.dnsPos.toNat tail ls) = some nm ∧ s.dnsPos.toNat ≤ off.toNat ∧
      off.toNat < s.dnsPos.toNat + (labelItems ls).length := by
  have := s.dnsLen.isLt
  have := labelItems_length_lt ls e
  have := h.room
  exact suffixAt_of_positionOf (by omega) hpos

/-- A suffix read is registered for decoding where it was registered for encoding, and no older entry is lost: all of those
stand at earlier positions. -/
theorem Written.mirrored_after (h : Written nc s t ls e tail) (hm : mirrored s) (hb : registeredBefore s)
    (hereg : u.ereg = t.ereg)
    (hdreg : ∀ off, mapGet off u.dreg = (suffixAt off (suffixesAt s.dnsPos.toNat tail ls)).or (mapGet off s.dreg)) :
    mirrored u := by
  intro nm off hreg
  rw [hereg] at hreg
  rw [hdreg]
  rcases h.mapGet_ereg hreg with hpos | hold
  · rw [(h.suffix_at hpos).1, Option.some_or]
  · have hbefore := hb nm off hold
    have hnone : suffixAt off (suffixesAt s.dnsPos.toNat tail ls) = none := suffixAt_eq_none fun p hp => by
      have := (position_of_mem_suffixesAt hp).1
      omega
    rw [hnone, Option.none_or, hm nm off hold]

theorem Written.registeredBefore_after (h : Written nc s t ls e tail) (hb : registeredBefore s) (hereg : u.ereg = t.ereg)
    (hpos : u.dnsPos = t.dnsPos) : registeredBefore u := by
  intro nm off hreg
  have hend : u.dnsPos.toNat = s.dnsPos.toNat + (wireName ls e).length := by
    rw [hpos, h.eq, setEreg_dnsPos, dnsPos_emit h.room]
  have hlt := labelItems_length_lt ls e
  rw [hereg] at hreg
  rcases h.mapGet_ereg hreg with hat | hold
  · have := (h.suffix_at hat).2.2
    omega
  · have := hb nm off hold
    omega

/-- What is written is a name that the decoder can read from the position where the encoder began. -/
theorem Written.nameAt (h : Written nc s t ls e tail) (hinv : Safety.Inv t) (hm : mirrored s)
    (hname : currentName s = nameText ls tail) (hmax : s.nameLen.toNat ≤ s.params.nameMax) :
    NameAt ((t.setDnsPos s.dnsPos).setNameLen 0#32) ls e tail := by
  have heq := h.eq
  rw [emit_setEreg_eq] at heq
  have hdreg : t.dreg = s.dreg := by rw [heq]
  have hdlen : t.dnsLen = s.dnsLen := by rw [heq]
  have hparams : t.params = s.params := by rw [heq]
  refine nameAt_of_inv (hinv.setDnsPos s.dnsPos) h.labels_le ?_ ?_ ?_ ?_
  · rw [setDnsPos_dreg, hdreg]
    exact h.endsIn hm
  · exact messageHolds_of_emit (by rw [heq]) (by rw [h.eq]; rfl) (by rw [heq])
  · rw [setDnsPos_dnsPos, setDnsPos_dnsLen, hdlen]
    exact h.room
  · rw [setDnsPos_params, hparams, ← hname, currentName_length]
    exact hmax

/-- The decoder has room when it has room for as many entries as the name can have labels. -/
theorem Written.room_for_suffixes (h : Written nc s t ls e tail)
    (hroom : roomFor s s.dreg.length (dotCount (nameText ls tail) + 1)) :
    roomFor (t.setDnsPos s.dnsPos) (t.setDnsPos s.dnsPos).dreg.length
      (newKeys (t.setDnsPos s.dnsPos) (suffixesAt s.dnsPos.toNat tail ls)) := by
  have heq := h.eq
  rw [emit_setEreg_eq] at heq
  have hdreg : t.dreg = s.dreg := by rw [heq]
  have hparams : t.params = s.params := by rw [heq]
  intro cap hcap
  have hkeys := newKeys_le_length (t.setDnsPos s.dnsPos) (suffixesAt s.dnsPos.toNat tail ls)
  have hlabels := length_le_dotCount tail ls
  have hle := hroom cap (by rwa [setDnsPos_params, hparams] at hcap)
  rw [suffixesAt_length] at hkeys
  rw [setDnsPos_dreg, hdreg]
  omega

end

end Sys2Proof.Machine

namespace Sys2Proof.Claims

open Sys2Proof Sys2Proof.Machine Sys2Proof.Safety

/-- Settles O58: the encoder has written the bytes of the name in `NAME`, which the decoder reads; the registries meet at the
positions of its suffixes. -/
theorem encodeDecodeRoundTrip : Obligations.EncodeDecodeRoundTrip := by
  intro s t nc hinv hrun hmir hbefore hroom ht htrun
  obtain ⟨ls, e, tail, hwritten, hname, hw, hmax⟩ := dnsEncode_eq_ok (finish_eq_ok ht htrun)
  have hinv' : Inv t := hinv.exec ht
  have hat := hwritten.nameAt hinv' hmir hname hmax
  have heq := hwritten.eq
  rw [emit_setEreg_eq] at heq
  have hdreg : t.dreg = s.dreg := by rw [heq]
  have hwindow : windowFits (t.setDnsPos s.dnsPos) := by
    rw [heq]
    exact hw
  rw [hname] at hroom
  obtain ⟨m, hexec, hm⟩ :=
    exec_dnsDec_of_room (hinv'.setDnsPos s.dnsPos) hwindow hat (hwritten.room_for_suffixes hroom)
  obtain ⟨hframe, htext, _⟩ := decoded_spec hat
  generalize decoded ls e tail (t.setDnsPos s.dnsPos) = u at hexec hframe htext
  have hpos : u.dnsPos = t.dnsPos := by
    rw [hframe, hwritten.eq, setEreg_dnsPos, emit_dnsPos]
    rfl
  have hlen : u.nameLen = s.nameLen := by
    rw [hframe, ← hname, currentName_length, BitVec.ofNat_toNat, BitVec.setWidth_eq]
  have hget := hm.get
  rw [setDnsPos_dreg, hdreg] at hget
  have hereg : (u.setDreg m).ereg = t.ereg := by
    rw [hframe]
    rfl
  refine ⟨u.setDreg m, hexec, ?_, hpos, hlen, ?_, hwritten.mirrored_after hmir hbefore hereg hget,
    hwritten.registeredBefore_after hbefore hereg hpos⟩
  · rw [hframe]
    exact htrun
  · rw [currentName_setDreg, htext, hname]

end Sys2Proof.Claims

/-! PROOF. The SYS unit (44_system.md R230, R231): what `NOP` and `SYS.RESET` do, what the host reads after a soft reset, and
that no other word with the opcode of a command without operands is legal. -/

namespace Sys2Proof.Machine

open Sys2Proof Sys2Proof.Claims

theorem exec_nop (s : State) : exec .nop s = .next s := rfl

theorem exec_sysReset (s : State) : exec .sysReset s = .next (softReset s) := rfl

/-! ### The views after a soft reset -/

/-- After a soft reset every register reads as right after reset (10_state.md R52). -/
theorem readReg_softReset (s : State) (r : Reg) : readReg (softReset s) r = readReg (State.resetWith s.params) r := by
  cases r <;> rfl

theorem resetWith_crcResultView (p : Params) :
    readReg (State.resetWith p) .crcResult = p.crcInit ^^^ p.crcXorout := rfl

theorem resetWith_dnsDcountView (p : Params) : readReg (State.resetWith p) .dnsDcount = 0#32 :=
  viewWord_of_lt (n := 0) (by decide)

theorem resetWith_dnsEcountView (p : Params) : readReg (State.resetWith p) .dnsEcount = 0#32 :=
  viewWord_of_lt (n := 0) (by decide)

/-! ### Words that share a plain command's opcode -/

/-- Where the decoder selects a command without operands, the command's own word is the only legal one (30_encoding.md R96):
any other word that decoded would decode to the same command, and so be its word. -/
theorem decode_error_of_ne_encode {w : Word} {j : Instr}
    (hsel : selectCommand (fieldsOf w) = plainCommand (fieldsOf w) j) (hne : w ≠ encode j) :
    ∃ r, decode w = .error r := by
  cases hw : decode w with
  | error r => exact ⟨r, rfl⟩
  | ok i =>
    have hword : encode i = w := encode_of_decode hw
    unfold decode at hw
    split_ifs at hw
    rw [hsel] at hw
    obtain ⟨_, _, rfl⟩ := plainCommand_ok hw
    exact absurd hword.symm hne

theorem selectCommand_of_opc_nop {f : Fields} (h : f.opc = 0x00#8) : selectCommand f = plainCommand f .nop := by
  simp [selectCommand, h]

theorem selectCommand_of_opc_sysReset {f : Fields} (h : f.opc = 0x01#8) :
    selectCommand f = plainCommand f .sysReset := by
  simp [selectCommand, h]

/-- Such another word raises `E_ILLEGAL_CMD` while `FAULT` is 0 (30_encoding.md R97, R102). -/
theorem commandWrite_of_ne_encode {s : State} {w : Word} {j : Instr} (hrun : s.fault = false)
    (hsel : selectCommand (fieldsOf w) = plainCommand (fieldsOf w) j) (hne : w ≠ encode j) :
    commandWrite s w = .next (faulted s 0x01#8 0#32 w) := by
  obtain ⟨r, hr⟩ := decode_error_of_ne_encode hsel hne
  exact commandWrite_of_error hrun hr

/-! ### The words of the two commands written to `CMD` -/

/-- The word of `SYS.RESET` executes whether `FAULT` is 1 or 0 (30_encoding.md R102; 60_exceptions.md R246). -/
theorem commandWrite_sysReset (s : State) : commandWrite s 0x01000000#32 = exec .sysReset s := by
  cases hf : s.fault with
  | true => simp [commandWrite, hf]
  | false => exact commandWrite_of_decode hf (decode_encode .sysReset)

/-- The word of `NOP` has no effect: ignored while `FAULT` is 1, executed while it is 0. -/
theorem commandWrite_nop (s : State) : commandWrite s 0x00000000#32 = .next s := by
  cases hf : s.fault with
  | true => exact commandWrite_of_fault hf (by decide)
  | false => exact (commandWrite_of_decode hf (decode_encode .nop)).trans (exec_nop s)

end Sys2Proof.Machine

namespace Sys2Proof.Claims

open Sys2Proof Sys2Proof.Machine

/-- Settles O3: the next state is the soft reset's, whose views are those of a machine just reset. -/
theorem sysResetRestoresResetValues : Obligations.SysResetRestoresResetValues := by
  refine fun s => ⟨⟨softReset s, exec_sysReset s, rfl, bufRead_congr rfl rfl, nameRead_congr rfl rfl, ?_, ?_, ?_, ?_⟩,
    commandWrite_sysReset s, fun _ => commandWrite_of_fault,
    fun _ hrun hopc => commandWrite_of_ne_encode hrun (selectCommand_of_opc_sysReset hopc)⟩
  · rw [readReg_softReset, resetWith_icsResultView]
  · rw [readReg_softReset, resetWith_crcResultView]
  · rw [readReg_softReset, resetWith_dnsDcountView]
  · rw [readReg_softReset, resetWith_dnsEcountView]

/-- Settles O21: a legal word with opcode 0 is the word of `NOP`, which leaves the state as it is. -/
theorem nopDoesNothing : Obligations.NopDoesNothing :=
  fun s => ⟨exec_nop s, rfl, commandWrite_nop s,
    fun _ hopc hne hrun => commandWrite_of_ne_encode hrun (selectCommand_of_opc_nop hopc) hne⟩

end Sys2Proof.Claims

/-! PROOF. The faults of the commands (60_exceptions.md R240 to R244): each command either leaves `FAULT` 0 or takes one fault
of its own; a DNS fault bears `DNS_POS` as its position, and every other one is raised before any effect. -/

namespace Sys2Proof.Machine

open Sys2Proof Sys2Proof.Claims

/-! ### Faults of the DNS unit -/

/-- A piece of the pseudocode of `i` raises only the DNS causes that `i` can raise, each at `DNS_POS` as it leaves it. -/
def RaisesDns {α : Type} (i : Instr) (r : Res α) : Prop :=
  ∀ c pos t, r = .raise c pos t → errCodeByte c ∈ ownFaults i ∧ errCodeByte c ∈ dnsCodes ∧ pos = t.dnsPos

section

variable {α β : Type} {i : Instr}

theorem raisesDns_ok (a : α) (s : State) : RaisesDns i (.ok a s) := fun _ _ _ h => nomatch h

theorem raisesDns_raise {c : ErrCode} (hc : errCodeByte c ∈ ownFaults i ∧ errCodeByte c ∈ dnsCodes) (s : State) :
    RaisesDns i (.raise c s.dnsPos s : Res α) := by
  intro c' pos t h
  cases h
  exact ⟨hc.1, hc.2, rfl⟩

theorem RaisesDns.bind {r : Res α} {f : α → State → Res β} (hr : RaisesDns i r) (hf : ∀ a s, RaisesDns i (f a s)) :
    RaisesDns i (r.bind f) := by
  intro c pos t h
  rcases bind_eq_raise h with h | ⟨a, s, _, h⟩
  · exact hr c pos t h
  · exact hf a s c pos t h

end

/-! ### The pieces of `DNS.DEC` -/

theorem dnsRd8_raises (s : State) : RaisesDns .dnsDec (dnsRd8 s) := by
  rcases dnsRd8_cases s with ⟨h, _⟩ | ⟨h, _⟩ <;> rw [h]
  · exact raisesDns_ok _ _
  · exact raisesDns_raise (by decide) s

theorem nameAppend_raises (c : Byte) (s : State) : RaisesDns .dnsDec (nameAppend c s) := by
  rcases nameAppend_cases c s with ⟨h, _⟩ | ⟨h, _⟩ <;> rw [h]
  · exact raisesDns_ok _ _
  · exact raisesDns_raise (by decide) s

theorem nameSeparator_raises (s : State) : RaisesDns .dnsDec (nameSeparator s) := by
  unfold nameSeparator
  split
  · exact raisesDns_ok _ _
  · exact nameAppend_raises dot s

theorem nameAppendAll_raises (cs : List Byte) (s : State) : RaisesDns .dnsDec (nameAppendAll cs s) := by
  induction cs generalizing s with
  | nil => exact raisesDns_ok _ _
  | cons c cs ih => exact (nameAppend_raises c s).bind fun _ => ih

theorem decLabel_raises (n : Nat) (s : State) : RaisesDns .dnsDec (decLabel n s) := by
  induction n generalizing s with
  | zero => exact raisesDns_ok _ _
  | succ n ih => exact (dnsRd8_raises s).bind fun c t => (nameAppend_raises c t).bind fun _ => ih

theorem decPointer_raises (p0 : Byte) (s : State) : RaisesDns .dnsDec (decPointer p0 s) := by
  refine (dnsRd8_raises s).bind fun p1 t => ?_
  split
  · exact raisesDns_raise (by decide) t
  · exact (nameSeparator_raises t).bind fun _ => nameAppendAll_raises _

theorem decItems_raises (fuel : Nat) (k : List (Word × Nat)) (s : State) : RaisesDns .dnsDec (decItems fuel k s) := by
  induction fuel generalizing k s with
  | zero => exact raisesDns_raise (by decide) s
  | succ fuel ih =>
    refine (dnsRd8_raises s).bind fun len t => ?_
    split
    · exact raisesDns_ok _ _
    split
    · exact (decPointer_raises len t).bind fun _ => raisesDns_ok k
    split
    · exact raisesDns_raise (by decide) t
    · exact (nameSeparator_raises t).bind fun _ u => (decLabel_raises _ u).bind fun _ => ih _

theorem decRegister_raises (k : List (Word × Nat)) (s : State) : RaisesDns .dnsDec (decRegister k s) := by
  induction k generalizing s with
  | nil => exact raisesDns_ok _ _
  | cons p k ih =>
    rw [decRegister]
    split
    · exact raisesDns_raise (by decide) s
    · exact ih _

/-! ### The pieces of `DNS.ENC` -/

section

variable {nc : Bool}

/-- The faults of `DNS.ENC` are the same for both values of `NC`. -/
theorem ownFaults_dnsEnc (nc : Bool) : ownFaults (.dnsEnc nc) = ownFaults (.dnsEnc false) := rfl

theorem raisesDns_raise_dnsEnc {α : Type} {c : ErrCode}
    (hc : errCodeByte c ∈ ownFaults (.dnsEnc false) ∧ errCodeByte c ∈ dnsCodes) (s : State) :
    RaisesDns (.dnsEnc nc) (.raise c s.dnsPos s : Res α) :=
  raisesDns_raise (by rwa [ownFaults_dnsEnc]) s

theorem dnsWr8_raises (b : Byte) (s : State) : RaisesDns (.dnsEnc nc) (dnsWr8 b s) := by
  rcases dnsWr8_cases b s with ⟨h, _⟩ | ⟨h, _⟩ <;> rw [h]
  · exact raisesDns_ok _ _
  · exact raisesDns_raise_dnsEnc (by decide) s

theorem dnsWrAll_raises (bs : List Byte) (s : State) : RaisesDns (.dnsEnc nc) (dnsWrAll bs s) := by
  induction bs generalizing s with
  | nil => exact raisesDns_ok _ _
  | cons b bs ih => exact (dnsWr8_raises b s).bind fun _ => ih

theorem encLookup_raises (rem : List Byte) (s : State) : RaisesDns (.dnsEnc nc) (encLookup nc rem s) := by
  rcases encLookup_cases nc rem s with ⟨_, h⟩ | ⟨_, _, _, h⟩ | ⟨_, _, _, h⟩ | ⟨_, _, _, h⟩ <;> rw [h]
  · exact raisesDns_ok _ _
  · exact raisesDns_ok _ _
  · exact raisesDns_ok _ _
  · exact raisesDns_raise_dnsEnc (by decide) s

theorem encPointer_raises (off : Word) (s : State) : RaisesDns (.dnsEnc nc) (encPointer off s) := by
  unfold encPointer
  split
  · exact raisesDns_raise_dnsEnc (by decide) s
  · exact dnsWrAll_raises _ s

theorem encLabel_raises (label : List Byte) (s : State) : RaisesDns (.dnsEnc nc) (encLabel label s) := by
  unfold encLabel
  split
  · exact raisesDns_raise_dnsEnc (by decide) s
  split
  · exact raisesDns_raise_dnsEnc (by decide) s
  · exact (dnsWr8_raises _ s).bind fun _ => dnsWrAll_raises label

theorem encSuffix_raises (fuel : Nat) (rem : List Byte) (s : State) :
    RaisesDns (.dnsEnc nc) (encSuffix nc fuel rem s) := by
  induction fuel generalizing rem s with
  | zero => exact raisesDns_raise_dnsEnc (by decide) s
  | succ fuel ih =>
    refine (encLookup_raises rem s).bind fun found t => ?_
    split
    · exact encPointer_raises _ t
    · refine (encLabel_raises _ t).bind fun _ u => ?_
      split
      · exact dnsWr8_raises _ u
      · exact raisesDns_raise_dnsEnc (by decide) u
      · exact ih _ u

end

/-! ### Own faults -/

/-- The fault `c` at `pos`, raised in the state `u`, is one that `i` begun in `s` can raise: a DNS fault bears `DNS_POS`, and
any other one finds the state as the command began it. -/
structure OwnFault (i : Instr) (s : State) (c : ErrCode) (pos : Word) (u : State) : Prop where
  own : errCodeByte c ∈ ownFaults i
  position : errCodeByte c ∈ dnsCodes → pos = u.dnsPos
  early : errCodeByte c ∉ dnsCodes → u = s

theorem ownFault_of_early {i : Instr} {c : ErrCode} (hc : errCodeByte c ∈ ownFaults i ∧ errCodeByte c ∉ dnsCodes)
    (s : State) (pos : Word) : OwnFault i s c pos s := ⟨hc.1, fun h => absurd h hc.2, fun _ => rfl⟩

theorem RaisesDns.ownFault {α : Type} {i : Instr} {r : Res α} {c : ErrCode} {pos : Word} {u : State} (h : RaisesDns i r)
    (hr : r = .raise c pos u) (s : State) : OwnFault i s c pos u := by
  obtain ⟨hown, hdns, hpos⟩ := h c pos u hr
  exact ⟨hown, fun _ => hpos, fun hnot => absurd hdns hnot⟩

/-- A DNS command tests its window before anything else; whatever it does after that raises DNS faults only. -/
theorem ownFault_of_dnsWindow {i : Instr} (hown : errCodeByte .bounds ∈ ownFaults i) {f : Unit → State → Res Unit}
    (hf : ∀ a t, RaisesDns i (f a t)) {s u : State} {c : ErrCode} {pos : Word}
    (h : (dnsWindow s).bind f = .raise c pos u) : OwnFault i s c pos u := by
  rcases dnsWindow_cases s with ⟨e, _⟩ | ⟨e, _⟩ <;> rw [e] at h
  · exact (hf () s).ownFault h s
  · cases h
    exact ownFault_of_early ⟨hown, by decide⟩ s _

theorem dnsDecode_ownFault {s u : State} {c : ErrCode} {pos : Word} (h : dnsDecode s = .raise c pos u) :
    OwnFault .dnsDec s c pos u :=
  ownFault_of_dnsWindow (by decide) (fun _ _ => (decItems_raises _ _ _).bind decRegister_raises) h

theorem dnsEncode_ownFault {nc : Bool} {s u : State} {c : ErrCode} {pos : Word} (h : dnsEncode nc s = .raise c pos u) :
    OwnFault (.dnsEnc nc) s c pos u := by
  refine ownFault_of_dnsWindow (by rw [ownFaults_dnsEnc]; decide) (fun _ t => ?_) h
  split
  · exact raisesDns_raise_dnsEnc (by decide) t
  split
  · exact dnsWr8_raises _ t
  · exact encSuffix_raises _ _ t

/-- The operand of `ICS.PH` is a pseudo-header, or one of the command's own faults (40_internet_checksum.md R127). -/
theorem phOperand_cases (s : State) :
    (∃ bs, phOperand s = .ok bs s) ∨
    ∃ c, (errCodeByte c ∈ ownFaults .icsPh ∧ errCodeByte c ∉ dnsCodes) ∧ phOperand s = .raise c 0#32 s := by
  rw [phOperand_eq]
  split_ifs
  · exact .inr ⟨.phNoaddr, by decide, rfl⟩
  · exact .inr ⟨.phFamily, by decide, rfl⟩
  · exact .inr ⟨.phLen, by decide, rfl⟩
  · exact .inl ⟨ph6 s, rfl⟩
  · exact .inl ⟨ph4 s, rfl⟩

/-! ### Commands -/

/-- `o` is a next state in which `FAULT` is 0, or the one that a fault of its own leaves after `i` begun in `s`. -/
def RunsOrFaults (i : Instr) (s : State) (o : Host.Outcome State Fault Refusal) : Prop :=
  (∃ u, o = .next u ∧ u.fault = false) ∨
  ∃ c pos u, o = .next (faulted u (errCodeByte c) pos (encode i)) ∧ OwnFault i s c pos u

theorem runsOrFaults_finish {i : Instr} {s : State} {r : Res Unit} (hrun : r.state.fault = false)
    (hown : ∀ c pos u, r = .raise c pos u → OwnFault i s c pos u) : RunsOrFaults i s (finish (encode i) r) := by
  cases r with
  | ok _ u => exact .inl ⟨u, rfl, hrun⟩
  | raise c pos u =>
    exact .inr ⟨c, pos, u, congrArg Host.Outcome.next (takeFault_eq_faulted hrun c pos _), hown c pos u rfl⟩

@[simp] theorem absorbed_fault (i : Instr) (bs : List Byte) (s : State) : (absorbed i bs s).fault = s.fault := by
  cases i <;> rfl

theorem exec_add_runsOrFaults {i : Instr} (hi : i ∈ addCommands) (hown : errCodeByte .bounds ∈ ownFaults i) {s : State}
    (hrun : s.fault = false) : RunsOrFaults i s (exec i s) := by
  by_cases h : s.argPtr.toNat + s.argCnt.toNat ≤ s.params.bufSize
  · exact .inl ⟨_, exec_add_of_fits hi h, by rwa [absorbed_fault]⟩
  · exact .inr ⟨.bounds, _, s, exec_add_of_not_fits hi (not_le.mp h) hrun, ownFault_of_early ⟨hown, by decide⟩ s _⟩

/-- Everything a command can do to `FAULT` while it is 0. -/
theorem exec_runsOrFaults (i : Instr) {s : State} (hrun : s.fault = false) : RunsOrFaults i s (exec i s) := by
  cases i with
  | nop | icsInit | icsAddb | crcInit | crcAddb | adlInit | adlAddb | dnsClr => exact .inl ⟨_, rfl, hrun⟩
  | sysReset => exact .inl ⟨_, rfl, rfl⟩
  | icsAdd | crcAdd | adlAdd => exact exec_add_runsOrFaults (by decide) (by decide) hrun
  | icsPh =>
    rcases phOperand_cases s with ⟨bs, h⟩ | ⟨c, hc, h⟩
    · exact .inl ⟨_, exec_icsPh_of_ok h, hrun⟩
    · exact .inr ⟨c, _, s, exec_icsPh_of_raise h hrun, ownFault_of_early hc s _⟩
  | icsPut =>
    by_cases h : s.argPtr.toNat + 2 ≤ s.params.bufSize
    · exact .inl ⟨_, exec_icsPut_of_fits h, by rw [memWrite_eq]; exact hrun⟩
    · exact .inr ⟨.bounds, _, s, exec_icsPut_of_not_fits (not_le.mp h) hrun, ownFault_of_early (by decide) s _⟩
  | dnsDec => exact runsOrFaults_finish (by rw [dnsDecode_frame]; exact hrun) fun _ _ _ => dnsDecode_ownFault
  | dnsEnc nc => exact runsOrFaults_finish (by rw [dnsEncode_frame]; exact hrun) fun _ _ _ => dnsEncode_ownFault

/-- A command that takes `FAULT` from 0 to 1 has taken a fault of its own. -/
theorem exec_eq_faulted {i : Instr} {s t : State} (hrun : s.fault = false) (ht : exec i s = .next t)
    (hfault : t.fault = true) :
    ∃ c pos u, t = faulted u (errCodeByte c) pos (encode i) ∧ OwnFault i s c pos u := by
  rcases exec_runsOrFaults i hrun with ⟨u, e, hu⟩ | ⟨c, pos, u, e, hown⟩ <;> rw [e] at ht <;> cases ht
  · exact absurd (hu.symm.trans hfault) Bool.false_ne_true
  · exact ⟨c, pos, u, rfl, hown⟩

end Sys2Proof.Machine

namespace Sys2Proof.Claims

open Sys2Proof Sys2Proof.Machine

/-- Settles O18: the fault taken is one of the command's own. -/
theorem faultingCommandIsRecorded : Obligations.FaultingCommandIsRecorded := by
  intro i s t hrun ht hfault
  obtain ⟨c, pos, u, rfl, hown⟩ := exec_eq_faulted hrun ht hfault
  exact ⟨rfl, hown.own, hown.position⟩

/-- Settles O19: a fault that is no DNS fault was raised in the state that the command began with. -/
theorem earlyFaultsChangeNothingElse : Obligations.EarlyFaultsChangeNothingElse := by
  intro i s t hrun ht hfault hcode
  obtain ⟨c, pos, u, rfl, hown⟩ := exec_eq_faulted hrun ht hfault
  obtain rfl : u = s := hown.early hcode
  rfl

/-- Settles O16: a command's end takes the fault, which records it or, while one stands, nothing. -/
theorem faultEntryRecordsFirstFault : Obligations.FaultEntryRecordsFirstFault := by
  intro s c pos w
  rw [finish_raise]
  cases hf : s.fault with
  | true => rw [takeFault_of_fault hf, if_pos rfl]
  | false => rw [takeFault_eq_faulted hf, if_neg Bool.false_ne_true]

end Sys2Proof.Claims

/-! PROOF. The two resets (70_reset_and_hazards.md R280 to R282): the hard reset as the reset state of the machine's parameters,
its bytes of `NAME` and `BUF`, and what the soft reset keeps beside it. -/

namespace Sys2Proof.Machine

open Sys2Proof Sys2Proof.Claims

/-! ### The hard reset -/

/-- The hard reset served: the engine is reset, and nothing is returned to the host. -/
theorem step_hardReset (s : State) : step (withEvent s .hardReset) = .next (hardReset (s.setRdata none)) :=
  step_withEvent s .hardReset

/-- Of the old state only the parameters, the counter of hard resets and the surroundings are left (R280). -/
theorem hardReset_eq_resetWith (s : State) :
    hardReset s = { State.resetWith s.params with epoch := s.epoch + 1, port := s.port, rdata := s.rdata } := rfl

/-- No byte of `BUF` counts as written any more, so each has the free value of the new counter (R280; log 6). -/
theorem bufRead_hardReset (s : State) (a : Nat) : bufRead (hardReset s) a = Config.bufInit (s.epoch + 1) a := by
  rw [bufRead, hardReset_buf, mapGet_nil, hardReset_epoch, Option.getD_none]

/-- No byte of `NAME` counts as written any more, so each has the free value of the new counter (R280; log 6). -/
theorem nameRead_hardReset (s : State) (i : Nat) : nameRead (hardReset s) i = Config.nameInit (s.epoch + 1) i := by
  rw [nameRead, hardReset_name, mapGet_nil, hardReset_epoch, Option.getD_none]

/-! ### The soft reset beside it -/

/-- The soft reset differs from the hard one in the two memories and the counter of hard resets only (R281). -/
theorem softReset_eq_hardReset (s : State) :
    softReset s = { hardReset s with name := s.name, buf := s.buf, epoch := s.epoch } := rfl

end Sys2Proof.Machine

namespace Sys2Proof.Claims

open Sys2Proof Sys2Proof.Machine

/-- Settles O2: the event is served by the hard reset, from which the soft reset differs in what it keeps. -/
theorem hardResetEvent : Obligations.HardResetEvent := by
  intro s
  refine ⟨hardReset (s.setRdata none), step_hardReset s, ?reset, ?buf, ?name, ?soft⟩
  case reset => exact hardReset_eq_resetWith (s.setRdata none)
  case buf => exact bufRead_hardReset (s.setRdata none)
  case name => exact nameRead_hardReset (s.setRdata none)
  case soft => rw [exec_sysReset, softReset_eq_hardReset]; rfl

end Sys2Proof.Claims
